-- ==== Sys2Proof/Word.lean ====
section
/-! DEFINITION. Words and bytes: the two widths the block's formats use (R90, R105). -/

namespace Sys2Proof

/-- One channel value, one colour code, one byte of the pixel buffer (R21, R91). -/
abbrev Byte := BitVec 8

/-- One word of the command port (R105), of a response (R107) or of format `SYMW` (R96). -/
abbrev Word := BitVec 32

end Sys2Proof
end

