-- ==== Sys2Proof/Config.lean ====
section
/-! DEFINITION. Constants and open parameters (R6), and the free values the environment chooses where the input
fields of State end (R38). An `opaque` constant has no value Lean can see: a statement about it holds for every value. -/

namespace Sys2Proof

/-! ## Constants with a value in the source (R6) -/

/-- `MAX_LEDS`. -/
abbrev maxLeds : Nat := 256
/-- `BYTES_PER_LED`. -/
abbrev bytesPerLed : Nat := 3
/-- `PIXEL_BYTES = MAX_LEDS * BYTES_PER_LED`. -/
abbrev pixelBytes : Nat := 768
/-- `RESOLUTION_HZ`: 1 tick is 0.1 microsecond. -/
abbrev resolutionHz : Nat := 10000000
/-- `MIN_FREE`, also `SYMBOLS_PER_BYTE`. -/
abbrev minFree : Nat := 8

theorem pixelBytes_eq : pixelBytes = maxLeds * bytesPerLed := rfl

/-! ## What an agent of the environment can choose -/

/-- The PLATFORM's answer to a call (R236). -/
inductive Answer where
  | ok
  | fail
  deriving DecidableEq, Repr, Inhabited

/-- One step of an agent other than the HOST. -/
inductive Move where
  /-- The ENGINE's PULL with the `symbols_free` it offers (R193, R194). -/
  | pull (free : Nat)
  /-- The SERIALIZER's SHIFT (R196). -/
  | shift
  /-- One tick of the 10 MHz time base passes on the wire (R30, R278). -/
  | tick
  /-- The ENGINE's COMPLETE (R198). -/
  | complete
  deriving DecidableEq, Repr, Inhabited

/-- What the environment chooses for one step of the HOST: the steps other agents take before it, and which of the
HOST's unordered writes it does (R69, R238). -/
structure Turn where
  moves : List Move
  pick : Nat
  deriving DecidableEq, Repr, Inhabited

/-- What a `transmit` of zero bytes does (R6, R190). -/
inductive ZeroLengthTx where
  | resetOnly
  | fault
  deriving DecidableEq, Repr, Inhabited

/-! ## Open parameters (R6; log entry 16) -/

/-- `DEFAULT_LED_COUNT`, 0 to 256 (R6, R137). -/
opaque Config.defaultLedCount : Fin 257
/-- `PIN`: any (R6). -/
opaque Config.pin : Nat
/-- How far `BLOCK_SYMBOLS` exceeds its least value. -/
opaque Config.blockSymbolsExtra : Nat
/-- `BLOCK_SYMBOLS`, at least 8 (R6, R29). -/
def Config.blockSymbols : Nat := 8 + Config.blockSymbolsExtra
/-- How far `QUEUE_DEPTH` exceeds its least value. -/
opaque Config.queueDepthExtra : Nat
/-- `QUEUE_DEPTH`, at least 1 (R6). -/
def Config.queueDepth : Nat := 1 + Config.queueDepthExtra
/-- `ZERO_LENGTH_TX` (R6, R190): a claim holds for both values. -/
opaque Config.zeroLengthTx : ZeroLengthTx

theorem Config.blockSymbols_ge : 8 ≤ Config.blockSymbols := Nat.le_add_right _ _
theorem Config.queueDepth_ge : 1 ≤ Config.queueDepth := Nat.le_add_right _ _

/-! ## Free values (log entries 4, 5, 6) -/

/-- The PLATFORM's answer at the `k`-th draw, where State's `answers` has ended (R236, U8). -/
opaque Config.freeAnswer : Nat → Answer
/-- The schedule's choice at the `k`-th draw, where State's `turns` has ended (R69, R194, R238). -/
opaque Config.freeTurn : Nat → Turn

end Sys2Proof
end

