-- ==== Sys2Proof/Syntax.lean ====
section
/-! DEFINITION. The operations: one constructor per row of spec/opcode_table.json. -/

namespace Sys2Proof

/-- The operations of the command port (R104, R106), the one operation of the pull interface (R108), and the reserved
command words (R109). -/
inductive Instr where
  /-- `INIT` (R180). -/
  | init
  /-- `CLEAR_ALL` (R136). -/
  | clearAll
  /-- `SET index, red, green, blue` (R130). -/
  | set (index : BitVec 24) (red green blue : Byte)
  /-- `GET index` (R134). -/
  | get (index : BitVec 24)
  /-- `QUANT code` (R150). -/
  | quant (code : Byte)
  /-- `FLUSH count` (R185). -/
  | flush (count : BitVec 24)
  /-- `LED p0, ..., p(n-1)` (R210); each parameter is a 32-bit unsigned integer (R106). -/
  | led (params : List Word)
  /-- `ENC_PULL symbols_written, symbols_free` (R160): on the pull interface, two naturals (R108). -/
  | encPull (symbolsWritten symbolsFree : Nat)
  /-- A reserved command (R109): a reserved header alone, or a `SET` header with its reserved operand word. -/
  | reserved (header : Word) (operand : Option Word)
  deriving DecidableEq, Repr

end Sys2Proof
end

