-- ==== Sys2Proof/WellFormed.lean ====
section
/-! DEFINITION. Which terms of `Instr` stand for a command the port can carry. -/

namespace Sys2Proof

/-- A header the encoding reserves (R109): `op` 0x00, `op` 0x08 to 0xFF, or a nonzero must-be-zero field (all of `arg`
for INIT and CLEAR_ALL, bits 23:8 for QUANT; R106). -/
def headerIsReserved (h : Word) : Bool :=
  let op := h.toNat / 2 ^ 24
  let arg := h.toNat % 2 ^ 24
  op == 0 || decide (8 ≤ op) || (op == 1 && arg != 0) || (op == 2 && arg != 0) || (op == 5 && arg / 2 ^ 8 != 0)

/-- A header of SET with an operand word whose bits 31:24 are not zero (R109). -/
def setOperandIsReserved (h w : Word) : Bool :=
  h.toNat / 2 ^ 24 == 3 && w.toNat / 2 ^ 24 != 0

/-- The checks: the parameter count of LED fits its 24-bit field (R106); a reserved command is reserved (R109). The other
operand ranges are in the types. -/
def Instr.wellFormed : Instr → Bool
  | .init => true
  | .clearAll => true
  | .set _ _ _ _ => true
  | .get _ => true
  | .quant _ => true
  | .flush _ => true
  | .led params => decide (params.length < 2 ^ 24)
  | .encPull _ _ => true
  | .reserved h none => headerIsReserved h
  | .reserved h (some w) => setOperandIsReserved h w

end Sys2Proof
end

