-- ==== Sys2Proof/Decode.lean ====
section
/-! DEFINITION. The command words (R105, R106, R109, R110), their decoder and encoder, the byte order of a narrow port
(R105), and the text form `+LED` (R102, R111). -/

namespace Sys2Proof

/-! ## Fields of a word (R105, R106) -/

/-- Header bits 31:24. -/
def opField (w : Word) : BitVec 8 := w.extractLsb' 24 8
/-- Header bits 23:0. -/
def argField (w : Word) : BitVec 24 := w.extractLsb' 0 24
/-- Bits 23:8, must be zero in a QUANT header. -/
def midField (w : Word) : BitVec 16 := w.extractLsb' 8 16
/-- Bits 31:24 of an operand word. -/
def byte3 (w : Word) : Byte := w.extractLsb' 24 8
/-- Bits 23:16. -/
def byte2 (w : Word) : Byte := w.extractLsb' 16 8
/-- Bits 15:8. -/
def byte1 (w : Word) : Byte := w.extractLsb' 8 8
/-- Bits 7:0. -/
def byte0 (w : Word) : Byte := w.extractLsb' 0 8
/-- A header word from its two fields (R105). -/
def headerWord (op : BitVec 8) (arg : BitVec 24) : Word := op ++ arg
/-- A word from four bytes, the most significant first (R105, R107). -/
def packWord (b3 b2 b1 b0 : Byte) : Word := b3 ++ b2 ++ b1 ++ b0

/-! ## Decoding -/

/-- Why a word sequence is no complete command: there is no word, or words of the command's length (R110) are missing. -/
inductive DecodeError where
  | noWord
  | missingWords
  deriving DecidableEq, Repr

/-- The operand word of a `SET` whose header is `h` (R106, R109). -/
def decodeSetOperand (h : Word) : List Word → Except DecodeError (Instr × List Word)
  | [] => .error .missingWords
  | w :: rest =>
    if byte3 w = 0 then .ok (.set (argField h) (byte2 w) (byte1 w) (byte0 w), rest)
    else .ok (.reserved h (some w), rest)

/-- The parameter words of a `LED` of `n` parameters (R106, R110). -/
def decodeLedParams (n : Nat) (ws : List Word) : Except DecodeError (Instr × List Word) :=
  if ws.length < n then .error .missingWords else .ok (.led (ws.take n), ws.drop n)

/-- The first command of a word sequence and the words after it (R106, R109, R110). Every header has a meaning: one the
encoding reserves is the reserved command of one word. -/
def decode : List Word → Except DecodeError (Instr × List Word)
  | [] => .error .noWord
  | h :: rest =>
    match (opField h).toNat with
    | 1 => if argField h = 0 then .ok (.init, rest) else .ok (.reserved h none, rest)
    | 2 => if argField h = 0 then .ok (.clearAll, rest) else .ok (.reserved h none, rest)
    | 3 => decodeSetOperand h rest
    | 4 => .ok (.get (argField h), rest)
    | 5 => if midField h = 0 then .ok (.quant (byte0 h), rest) else .ok (.reserved h none, rest)
    | 6 => .ok (.flush (argField h), rest)
    | 7 => decodeLedParams (argField h).toNat rest
    | _ => .ok (.reserved h none, rest)

/-! ## Encoding -/

/-- The words of a well-formed operation (R106, R109); `ENC_PULL` is not on the command port and has none (R108). -/
def encode : Instr → Option (List Word)
  | .init => some [headerWord 0x01 0]
  | .clearAll => some [headerWord 0x02 0]
  | .set index red green blue => some [headerWord 0x03 index, packWord 0 red green blue]
  | .get index => some [headerWord 0x04 index]
  | .quant code => some [headerWord 0x05 (code.setWidth 24)]
  | .flush count => some [headerWord 0x06 count]
  | .led params => some (headerWord 0x07 (BitVec.ofNat 24 params.length) :: params)
  | .encPull _ _ => none
  | .reserved h none => some [h]
  | .reserved h (some w) => some [h, w]

/-- The length of a command in words, known from its header alone (R110; R109 for a reserved header). -/
def commandLength (h : Word) : Nat :=
  match (opField h).toNat with
  | 3 => 2
  | 7 => 1 + (argField h).toNat
  | _ => 1

/-! ## A port narrower than 32 bits: the word travels most significant byte first (R105) -/

def bytesOfWord (w : Word) : List Byte := [byte3 w, byte2 w, byte1 w, byte0 w]

/-- The whole words of a byte sequence; the one to three bytes of an unfinished word are left over. -/
def wordsOfBytes : List Byte → List Word × List Byte
  | b3 :: b2 :: b1 :: b0 :: rest =>
    ((packWord b3 b2 b1 b0) :: (wordsOfBytes rest).1, (wordsOfBytes rest).2)
  | rest => ([], rest)

/-- `decode` over the bytes of a narrow port. -/
def decodeBytes (bs : List Byte) : Except DecodeError (Instr × List Word) := decode (wordsOfBytes bs).1

/-! ## The opcode table's numbering of an instruction's bits -/

/-- The words of the command whose bits are `w`, bit 0 the least significant bit of the first word, later words counting
on; the bits at and above `nbits` are zero. -/
def tableWords (nbits w : Nat) : List Word :=
  let v := w % 2 ^ nbits
  (List.range (commandLength (BitVec.ofNat 32 v))).map fun k => BitVec.ofNat 32 (v / 2 ^ (32 * k))

/-- The instruction the decoder reads from the bits of an opcode table row. -/
def decodeTableWord (nbits w : Nat) : Option Instr :=
  match decode (tableWords nbits w) with
  | .ok (i, _) => some i
  | .error _ => none

/-! ## The text form `+LED` (R102, R103, R111) -/

/-- The value of a decimal digit. -/
def digitValue (c : Char) : Option Nat :=
  if 48 ≤ c.toNat ∧ c.toNat ≤ 57 then some (c.toNat - 48) else none

/-- `digit { digit } { "," digit { digit } }` of R102, read from the left: `acc` is the value of the digits of the number
being read, `none` before its first digit. A value that does not fit 32 bits has no word form (log entry 21). -/
def parseParams : List Char → Option Nat → Option (List Word)
  | [], none => none
  | [], some acc => if acc < 2 ^ 32 then some [BitVec.ofNat 32 acc] else none
  | c :: cs, acc =>
    if c = ',' then
      match acc with
      | none => none
      | some a => if a < 2 ^ 32 then (parseParams cs none).map (BitVec.ofNat 32 a :: ·) else none
    else
      match digitValue c with
      | none => none
      | some d => parseParams cs (some ((acc.getD 0) * 10 + d))

/-- A `+LED` command line as the operation it stands for (R102, R111); any other text has none. DESIGN CHOICE (log entry 21): a
list of `2^24` numbers or more is the LED operation with them all, although `arg` is 24 bits wide and it has no word form. -/
def parseLedText : List Char → Option Instr
  | ['+', 'L', 'E', 'D'] => some (.led [])
  | '+' :: 'L' :: 'E' :: 'D' :: '=' :: cs => (parseParams cs none).map Instr.led
  | _ => none

end Sys2Proof
end

