-- ==== Sys2Proof/Machine/State.lean ====
section
/-! DEFINITION. The state of the block (10_state.md), its outcomes that are no next state, and the state after reset. -/

namespace Sys2Proof.Machine

/-! ## The parts -/

/-- The level of a wire (R9, R30): 0 is low, 1 is high. -/
inductive Level where
  | low
  | high
  deriving DecidableEq, Repr, Inhabited

/-- Format `SYM` (R9, R94): first level, first duration in ticks, second level, second duration. -/
structure Symbol where
  l0 : Level
  d0 : Nat
  l1 : Level
  d1 : Nat
  deriving DecidableEq, Repr, Inhabited

/-- A colour as the operations carry it, in the order red, green, blue (R154). -/
structure Colour where
  red : Byte
  green : Byte
  blue : Byte
  deriving DecidableEq, Repr

/-- Which half of a symbol is being driven (R30). -/
inductive Half where
  | first
  | second
  deriving DecidableEq, Repr

/-- The serializer's progress (R30): the symbol being driven, which half, and how many ticks of that half remain. -/
structure Shift where
  symbol : Symbol
  half : Half
  ticksLeft : Nat
  deriving DecidableEq, Repr

/-- A stretch of the wire at one level (R39). -/
structure Segment where
  level : Level
  ticks : Nat
  deriving DecidableEq, Repr

/-- The pixel buffer: the bytes that differ from 0, addresses strictly rising (R21; log entry 1). -/
abbrev Memory := List Host.Cell

/-- The configuration the transmission driver owns (R35). -/
structure Channel where
  acquired : Bool
  pin : Nat
  resolutionHz : Nat
  blockSymbols : Nat
  queueDepth : Nat
  encoderRegistered : Bool
  enabled : Bool
  deriving DecidableEq, Repr

/-- A call across the hardware boundary with its arguments (R236, R247). The channel, the callback and the pixel buffer
are the same at every call and are not written out. -/
inductive Call where
  | acquireChannel (pin resolutionHz blockSymbols queueDepth : Nat)
  | registerPullEncoder
  | enable
  /-- `wait_all_done(channel, forever)`. -/
  | waitAllDone
  /-- `transmit(channel, encoder, pixels, length, config)`. -/
  | transmit (length : Nat)
  deriving DecidableEq, Repr

/-- The name of a platform call, as `HardwareFault` records it (R233). -/
inductive CallName where
  | acquireChannel
  | registerPullEncoder
  | enable
  | waitAllDone
  | transmit
  deriving DecidableEq, Repr

/-- The model-level events (R8, R230). The fifth name of R230, TxUnderrun, is a bit of State. -/
inductive Event where
  /-- No. 1, OutOfRange on a pixel index (R231). -/
  | logOutOfRange (index : Nat)
  /-- No. 2, OutOfRange on a colour parameter: its place in the list and its value (R232). -/
  | outOfRange (k : Nat) (value : Word)
  /-- No. 3 (R234). -/
  | noInput
  /-- No. 4 (R233). -/
  | hardwareFault (call : CallName)
  /-- No. 6 (R109, R182): the word refused. -/
  | refused (word : Word)
  deriving DecidableEq, Repr

/-- The result code of an operation (R36, R107). -/
inductive Result where
  | ok
  | error
  deriving DecidableEq, Repr

/-- Format `RSP` (R107): a result code and, for GET and QUANT, one data word. -/
structure Response where
  result : Result
  data : Option Word
  deriving DecidableEq, Repr

/-- Format `PULLRSP` (R108): the count of symbols, the symbols in order, and whether `done` is asserted (otherwise it is
left untouched, R160). -/
structure PullResponse where
  count : Nat
  symbols : List Symbol
  done : Bool
  deriving DecidableEq, Repr

/-- Where the HOST is: it has no operation under way, or it waits in a FLUSH that has clamped its count to `leds`
(R8 `wait until`, R186, R187). -/
inductive HostPhase where
  | idle
  | waiting (leds : Fin 257)
  deriving DecidableEq, Repr

/-! ## The state -/

/-- The state of the block (R20), the events and traces the rules speak of, and the inputs the environment has given. -/
structure State where
  /-- R21. -/
  pixels : Memory
  /-- R22: 0 to 256. -/
  usedCount : Fin 257
  /-- R24. -/
  txInFlight : Bool
  /-- R25: 0 to 768. -/
  txLength : Fin 769
  /-- R26. -/
  symbolsWritten : Nat
  /-- R28. -/
  txDone : Bool
  /-- R29: the head first. -/
  ring : List Symbol
  /-- R30. -/
  pin : Level
  /-- R30: `none` is idle. -/
  shift : Option Shift
  /-- R34. -/
  initialized : Bool
  /-- R34. -/
  halted : Bool
  /-- R35. -/
  channel : Channel
  /-- R197, R230 row 5: the fault bit of the timed model. -/
  txUnderrun : Bool
  /-- R187: where the HOST is. -/
  host : HostPhase
  /-- R36, R107: the answer on the command port, `none` while an operation has not responded. -/
  response : Option Response
  /-- R108: the last answer on the pull interface. -/
  pullResponse : Option PullResponse
  /-- R8, R230: the events, oldest first. -/
  events : List Event
  /-- R236, R247: the platform calls made, oldest first. -/
  calls : List Call
  /-- R39: the symbols driven on the pin, oldest first. -/
  wire : List Symbol
  /-- R39: the same trace with time, newest segment first. -/
  wave : List Segment
  /-- Input (R104, R105): the command words offered and not yet taken. -/
  cmdWords : List Word
  /-- Input (R38, R238): the schedule's coming choices. -/
  turns : List Turn
  /-- Input (R38, R236): the PLATFORM's coming answers. -/
  answers : List Answer
  /-- The model's own: how many free values have been drawn (log entry 6). -/
  drawn : Nat
  deriving DecidableEq, Repr

/-- What stops the machine. -/
inductive Fault where
  /-- Raised by `step`, and by every meaning, in a state with `halted = 1`: a HardwareFault has occurred, no operation is
  accepted and no agent steps (R182, R233). Safe: the spec lets nothing be claimed after a halt. -/
  | halted
  deriving DecidableEq, Repr

/-- What has no meaning in the model. -/
inductive Refusal where
  /-- Raised by an arm of `exec` for an operation with no meaning yet; no arm does. Safe. -/
  | notModelled (mnemonic : String)
  deriving DecidableEq, Repr

/-- The state before INIT (R41, R260). Where R41 says "unspecified" the value is the model's (log entries 1, 2); the
traces and inputs are empty (log entries 3 to 6, 18, 19). -/
def State.reset : State where
  pixels := []
  usedCount := 0
  txInFlight := false
  txLength := 0
  symbolsWritten := 0
  txDone := false
  ring := []
  pin := .low
  shift := none
  initialized := false
  halted := false
  channel :=
    { acquired := false, pin := 0, resolutionHz := 0, blockSymbols := 0, queueDepth := 0,
      encoderRegistered := false, enabled := false }
  txUnderrun := false
  host := .idle
  response := none
  pullResponse := none
  events := []
  calls := []
  wire := []
  wave := []
  cmdWords := []
  turns := []
  answers := []
  drawn := 0

end Sys2Proof.Machine
end

