-- ==== Sys2Proof/Machine/Operands.lean ====
section
/-! DEFINITION. The operand forms: pixel addresses, colour code fields, the flush count, symbols and their word. -/

namespace Sys2Proof.Machine

/-- `addr(i, ch) = 3 * i + ch` (R61): channel 0 is green, 1 red, 2 blue. -/
abbrev pixelAddr (index ch : Nat) : Nat := 3 * index + ch

/-- The cursor (R27): the byte index of the next byte to send. -/
def cursor (symbolsWritten : Nat) : Nat := symbolsWritten / 8

/-- `ri = (code >> 5) & 0x7` (R92). -/
def redIndex (code : Byte) : BitVec 3 := code.extractLsb' 5 3
/-- `gi = (code >> 2) & 0x7` (R92). -/
def greenIndex (code : Byte) : BitVec 3 := code.extractLsb' 2 3
/-- `bi = code & 0x3` (R92). -/
def blueIndex (code : Byte) : BitVec 2 := code.extractLsb' 0 2

/-- `min(count, used_count)` (R186). -/
def clampCount (count : Nat) (used : Fin 257) : Fin 257 :=
  ⟨min count used.val, Nat.lt_of_le_of_lt (Nat.min_le_right _ _) used.isLt⟩

/-- The bytes of `leds` LEDs: `3 * n` (R25, R188). -/
def bytesOfLeds (leds : Fin 257) : Fin 769 := ⟨3 * leds.val, by omega⟩

/-- `max(previous_used_count, index + 1)` (R133). -/
def advanceCount (index : Fin 256) (used : Fin 257) : Fin 257 :=
  if used.val ≤ index.val then ⟨index.val + 1, by omega⟩ else used

/-! ## Symbols (R31, R94) -/

/-- `ZERO` (R31): 0.3 microsecond high, 0.9 low. -/
def Symbol.zero : Symbol := ⟨.high, 3, .low, 9⟩
/-- `ONE` (R31): 0.9 microsecond high, 0.3 low. -/
def Symbol.one : Symbol := ⟨.high, 9, .low, 3⟩
/-- `RESET` (R31): low for 50 microseconds, the split is decision D6 (log entry 20). -/
def Symbol.reset : Symbol := ⟨.low, 250, .low, 250⟩

/-- `sym(b)` (R97). -/
def Symbol.ofBit (b : Bool) : Symbol := if b then .one else .zero

/-- `syms(v)` (R98, R174): one symbol per bit, bit 7 first. -/
def Symbol.ofByte (v : Byte) : List Symbol :=
  [Symbol.ofBit (v.getLsbD 7), Symbol.ofBit (v.getLsbD 6), Symbol.ofBit (v.getLsbD 5), Symbol.ofBit (v.getLsbD 4),
    Symbol.ofBit (v.getLsbD 3), Symbol.ofBit (v.getLsbD 2), Symbol.ofBit (v.getLsbD 1), Symbol.ofBit (v.getLsbD 0)]

/-- How long a symbol is driven, in ticks (R95, R97). -/
def Symbol.ticks (s : Symbol) : Nat := s.d0 + s.d1

/-- A level as a bit of a word. -/
def Level.bit : Level → BitVec 1
  | .low => 0
  | .high => 1

/-- A bit of a word as a level. -/
def Level.ofBit (b : BitVec 1) : Level := if b = 1 then .high else .low

/-- Format `SYMW` (R96): bit 31 `l1`, 30:16 `d1`, 15 `l0`, 14:0 `d0`. -/
def Symbol.toWord (s : Symbol) : Word :=
  Level.bit s.l1 ++ BitVec.ofNat 15 s.d1 ++ Level.bit s.l0 ++ BitVec.ofNat 15 s.d0

/-- The symbol of a `SYMW` word (R96). -/
def Symbol.ofWord (w : Word) : Symbol :=
  ⟨Level.ofBit (w.extractLsb' 15 1), (w.extractLsb' 0 15).toNat,
    Level.ofBit (w.extractLsb' 31 1), (w.extractLsb' 16 15).toNat⟩

/-! ## The serializer's progress (R30) -/

/-- A symbol about to be driven: its first half, all of its ticks left. -/
def Shift.start (s : Symbol) : Shift := ⟨s, .first, s.d0⟩

/-- The level the half under way drives. -/
def Shift.level (p : Shift) : Level :=
  match p.half with
  | .first => p.symbol.l0
  | .second => p.symbol.l1

/-- The progress after one more tick: in the same half, in the second half, or idle. -/
def Shift.afterTick (p : Shift) : Option Shift :=
  if 1 < p.ticksLeft then some { p with ticksLeft := p.ticksLeft - 1 }
  else
    match p.half with
    | .first => some ⟨p.symbol, .second, p.symbol.d1⟩
    | .second => none

/-- The level of the pin for a progress of the serializer; idle is low (R30). -/
def pinLevel : Option Shift → Level
  | none => .low
  | some p => p.level

/-- The wire trace one tick longer (R39). -/
def extendWave (wave : List Segment) (l : Level) : List Segment :=
  match wave with
  | [] => [⟨l, 1⟩]
  | seg :: rest => if seg.level = l then ⟨l, seg.ticks + 1⟩ :: rest else ⟨l, 1⟩ :: seg :: rest

/-! ## Codes and names -/

/-- `OK = 0`, `ERROR = 1` (R107). -/
def Result.code : Result → Nat
  | .ok => 0
  | .error => 1

/-- The number of an event's name in R230. -/
def Event.number : Event → Nat
  | .logOutOfRange _ => 1
  | .outOfRange _ _ => 2
  | .noInput => 3
  | .hardwareFault _ => 4
  | .refused _ => 6

/-- The name of a call (R233, R247). -/
def Call.name : Call → CallName
  | .acquireChannel _ _ _ _ => .acquireChannel
  | .registerPullEncoder => .registerPullEncoder
  | .enable => .enable
  | .waitAllDone => .waitAllDone
  | .transmit _ => .transmit

end Sys2Proof.Machine
end

