-- ==== Sys2Proof/Machine/Flags.lean ====
section
/-! DEFINITION. The conditions over the status flags: which step of which agent is enabled, when a frame has begun, when a
tick falls into a gap, which platform call is rejected. -/

namespace Sys2Proof.Machine

/-- PULL is enabled: `tx_in_flight = 1`, `tx_done = 0`, `halted = 0` (R193, R195). -/
def State.pullEnabled (s : State) : Bool := s.txInFlight && !s.txDone && !s.halted

/-- SHIFT is enabled: `ring_occ > 0`, `shift = idle`, `halted = 0` (R196). -/
def State.shiftEnabled (s : State) : Bool := !s.ring.isEmpty && s.shift.isNone && !s.halted

/-- COMPLETE is enabled: `tx_in_flight = 1`, `tx_done = 1`, ring empty, `shift = idle` (R198); no agent steps after a halt
(R233). -/
def State.completeEnabled (s : State) : Bool :=
  s.txInFlight && s.txDone && s.ring.isEmpty && s.shift.isNone && !s.halted

/-- Nothing is on its way to the wire: no agent but the HOST has a step that does anything. -/
def State.quiet (s : State) : Bool := !s.txInFlight && s.ring.isEmpty && s.shift.isNone

/-- The passing of a tick matters: something is on its way to the wire. -/
def State.tickEnabled (s : State) : Bool := !s.quiet && !s.halted

/-- A symbol of the frame has left the ring: more symbols were written than the ring holds (R26, R67). -/
def State.frameStarted (s : State) : Bool := decide (s.ring.length < s.symbolsWritten)

/-- The serializer takes the next symbol on the very next tick (R196): within a frame it does not idle while the ring holds
a symbol (R30, R101). Before the frame's first symbol it may (R196, U19). -/
def State.mustShift (s : State) : Bool := s.shiftEnabled && s.frameStarted

/-- A tick that passes now is a tick of a gap (R197): during a transmission, after its first symbol and before its RESET
has been popped, no symbol is driven and the ring is empty. -/
def State.inGap (s : State) : Bool :=
  s.txInFlight && !s.txDone && s.ring.isEmpty && s.shift.isNone && s.frameStarted

/-- The free slots of the ring (R29). The capacity is the one the channel was acquired with (log entry 12). -/
def State.room (s : State) : Nat := s.channel.blockSymbols - s.ring.length

/-- A call the platform cannot accept whatever it draws: a `transmit` of zero bytes where `ZERO_LENGTH_TX = fault`
(R190). -/
def Call.rejected : Call → Bool
  | .transmit length => length == 0 && Config.zeroLengthTx == .fault
  | .acquireChannel _ _ _ _ => false
  | .registerPullEncoder => false
  | .enable => false
  | .waitAllDone => false

end Sys2Proof.Machine
end

