-- ==== Sys2Proof/Machine/Ops.lean ====
section
/-! DEFINITION. The named operations over memory, registers, ring, traces and inputs, and the raising of an error, which
every meaning shares. -/

namespace Sys2Proof.Machine

/-! ## The pixel buffer (R62, R63) -/

/-- The canonical form: addresses strictly rising and below 768, and no listed byte is 0. -/
abbrev Memory.wf (m : Memory) : Prop :=
  m.Pairwise (fun c d => c.1 < d.1) ∧ ∀ c ∈ m, c.1 < pixelBytes ∧ c.2 ≠ 0

/-- The byte at address `a`: what is listed, else 0 (log entry 1). A read changes no state (R62, R70). -/
def Memory.read : Memory → Nat → Byte
  | [], _ => 0
  | (b, v) :: m, a => if b = a then v else Memory.read m a

/-- The buffer with the byte at `a` replaced, in canonical form. -/
def Memory.write : Memory → Nat → Byte → Memory
  | [], a, v => if v = 0 then [] else [(a, v)]
  | (b, u) :: m, a, v =>
    if a < b then (if v = 0 then (b, u) :: m else (a, v) :: (b, u) :: m)
    else if a = b then (if v = 0 then m else (a, v) :: m)
    else (b, u) :: Memory.write m a v

/-- `MemRead(addr, n)` (R62), lowest address first. No rule calls it outside `addr + n <= 768` (R65). -/
def memRead (m : Memory) (addr n : Nat) : List Byte := (List.range n).map fun k => m.read (addr + k)

/-- One atomic byte write of the HOST (R69). An address at or above 768 is no byte of the buffer and nothing is written; no
rule makes such a write (R65). -/
def State.storeByte (s : State) (a : Nat) (v : Byte) : State :=
  { s with pixels := if a < pixelBytes then s.pixels.write a v else s.pixels }

/-- `used_count <- max(used_count, index + 1)` (R130, R133). -/
def State.advanceUsed (s : State) (index : Fin 256) : State :=
  { s with usedCount := advanceCount index s.usedCount }

/-- `used_count <- n`. -/
def State.setUsed (s : State) (n : Fin 257) : State := { s with usedCount := n }

/-! ## Events and responses (R8, R107, R233, R239) -/

/-- `emit Event` (R8): no architectural state changes. -/
def State.emit (s : State) (e : Event) : State := { s with events := s.events ++ [e] }

/-- The operation ends with a response, and the port is ready for the next one (R104, R107). -/
def State.respond (s : State) (r : Result) (data : Option Word) : State :=
  { s with response := some ⟨r, data⟩, host := .idle }

/-- The block halts: the operation under way never responds (R233). -/
def State.halt (s : State) : State := { s with halted := true, response := none, host := .idle }

/-- `raise` (R230, R239): every error is raised here. The event is emitted; then an index error goes on (R231), a
HardwareFault halts (R233), and every other error ends the operation with `ERROR` (R232, R234, R109, R182). Nothing is saved
and there is no handler and no return from an error (R239, R240). -/
def State.raise (s : State) (e : Event) : State :=
  match e with
  | .logOutOfRange _ => s.emit e
  | .outOfRange _ _ => (s.emit e).respond .error none
  | .noInput => (s.emit e).respond .error none
  | .hardwareFault _ => (s.emit e).halt
  | .refused _ => (s.emit e).respond .error none

/-- Availability (R182): a halted block accepts nothing; before INIT an operation other than INIT and QUANT is refused;
otherwise the operation runs. -/
def accept (header : Word) (run : State → State) (s : State) : Host.Outcome State Fault Refusal :=
  if s.halted then .fault .halted
  else if s.initialized then .next (run s)
  else .next (s.raise (.refused header))

/-! ## The inputs (R38) -/

/-- The PLATFORM's next answer: the next of State's answers, a free value where they have ended (log entry 5). -/
def State.takeAnswer (s : State) : Answer × State :=
  match s.answers with
  | a :: rest => (a, { s with answers := rest })
  | [] => (Config.freeAnswer s.drawn, { s with drawn := s.drawn + 1 })

/-- The schedule's next choice: the next of State's turns, a free value where they have ended (log entry 4). -/
def State.takeTurn (s : State) : Turn × State :=
  match s.turns with
  | t :: rest => (t, { s with turns := rest })
  | [] => (Config.freeTurn s.drawn, { s with drawn := s.drawn + 1 })

/-- The call is made (R236). -/
def State.recordCall (s : State) (c : Call) : State := { s with calls := s.calls ++ [c] }

/-- `PlatformCall(name, args)` (R236): the call is made and the PLATFORM answers. -/
def State.platformCall (s : State) (c : Call) : Answer × State :=
  let r := (s.recordCall c).takeAnswer
  (if c.rejected then .fail else r.1, r.2)

/-! ## The symbol ring (R67) -/

/-- `RingPush` of the symbols of one pull, in order. -/
def State.ringPush (s : State) (symbols : List Symbol) : State := { s with ring := s.ring ++ symbols }

/-- `RingPop`: the symbol at the head and the state without it. -/
def State.ringPop (s : State) : Option (Symbol × State) :=
  match s.ring with
  | [] => none
  | sym :: rest => some (sym, { s with ring := rest })

/-! ## The transmission registers -/

/-- The issue of a transmission over `leds` LEDs (R188). -/
def State.issue (s : State) (leds : Fin 257) : State :=
  { s with txLength := bytesOfLeds leds, symbolsWritten := 0, txDone := false, txInFlight := true }

/-- The HOST waits (R8 `wait until`, R187): no response yet. -/
def State.wait (s : State) (leds : Fin 257) : State := { s with host := .waiting leds, response := none }

end Sys2Proof.Machine
end

