-- ==== Sys2Proof/Machine/Quantizer.lean ====
section
/-! DEFINITION. The colour quantizer QUANT (41_quantizer.md). -/

namespace Sys2Proof.Machine

/-- `LUT3` (R32): literals, not a formula (R151). -/
def lut3 (i : BitVec 3) : Byte :=
  match i.toNat with
  | 0 => 0
  | 1 => 2
  | 2 => 7
  | 3 => 25
  | 4 => 57
  | 5 => 106
  | 6 => 171
  | _ => 255

/-- `LUT2` (R33). -/
def lut2 (i : BitVec 2) : Byte :=
  match i.toNat with
  | 0 => 0
  | 1 => 2
  | 2 => 57
  | _ => 255

/-- `quantize` (R150): pure and total. -/
def quantize (code : Byte) : Colour := ⟨lut3 (redIndex code), lut3 (greenIndex code), lut2 (blueIndex code)⟩

/-- The data word of QUANT's response (R107, R150). -/
def quantData (code : Byte) : Word :=
  packWord 0 (quantize code).red (quantize code).green (quantize code).blue

/-- QUANT (R150): accepted in every state but a halted one, also before INIT (R182). -/
def execQuant (code : Byte) (s : State) : Host.Outcome State Fault Refusal :=
  if s.halted then .fault .halted else .next (s.respond .ok (some (quantData code)))

end Sys2Proof.Machine
end

