-- ==== Sys2Proof/Machine/Encoder.lean ====
section
/-! DEFINITION. The bit-to-symbol encoder ENC_PULL (42_encoder.md). -/

namespace Sys2Proof.Machine

/-- `encode(buf, len, symbols_written, symbols_free)` (R160): the free-slot check first (R164, R167), then a data byte
(R165) or RESET (R166). A pure function with no cursor of its own (R170). -/
def encodePull (buf : Memory) (len symbolsWritten symbolsFree : Nat) : PullResponse :=
  if symbolsFree < minFree then ⟨0, [], false⟩
  else if cursor symbolsWritten < len then ⟨8, Symbol.ofByte (buf.read (cursor symbolsWritten)), false⟩
  else ⟨1, [Symbol.reset], true⟩

/-- The answer on the pull interface to one request (R108): the buffer is `pixels` and the length `tx_length`. -/
def State.answerPull (s : State) (symbolsWritten symbolsFree : Nat) : State :=
  { s with pullResponse := some (encodePull s.pixels s.txLength.val symbolsWritten symbolsFree) }

/-- ENC_PULL (R160): the encoder answers and writes no register. After a halt the ENGINE takes no step (R233). -/
def execEncPull (symbolsWritten symbolsFree : Nat) (s : State) : Host.Outcome State Fault Refusal :=
  if s.halted then .fault .halted else .next (s.answerPull symbolsWritten symbolsFree)

end Sys2Proof.Machine
end

