-- ==== Sys2Proof/Machine/Agents.lean ====
section
/-! DEFINITION. The steps of the hardware agents (PULL, SHIFT, COMPLETE and one tick of the wire; 43_tx_driver.md), and the
interleaving of their steps with the HOST's (R69, R238). -/

namespace Sys2Proof.Machine

/-! ## The steps -/

/-- What the ENGINE does with an answer of the encoder (R193): push the symbols, count them, latch `done`. -/
def State.absorbPull (s : State) (r : PullResponse) : State :=
  { s.ringPush r.symbols with
    symbolsWritten := s.symbolsWritten + r.count
    txDone := s.txDone || r.done }

/-- PULL (R193). The offered `symbols_free` is at most the room the ring really has (R194). -/
def State.pull (s : State) (free : Nat) : State :=
  if s.pullEnabled then
    let f := min free s.room
    (s.answerPull s.symbolsWritten f).absorbPull (encodePull s.pixels s.txLength.val s.symbolsWritten f)
  else s

/-- SHIFT (R196): pop a symbol, begin to drive it, append it to the wire trace. -/
def State.shiftNext (s : State) : State :=
  if s.shiftEnabled then
    match s.ringPop with
    | none => s
    | some (sym, s') =>
      { s' with shift := some (Shift.start sym), pin := (Shift.start sym).level, wire := s'.wire ++ [sym] }
  else s

/-- One tick of a symbol being driven (R30). -/
def State.driveTick (s : State) (p : Shift) : State :=
  { s with shift := p.afterTick, pin := pinLevel p.afterTick, wave := extendWave s.wave p.level }

/-- One tick with no symbol being driven: the wire is low (R30), and within a frame this is a gap (R197). -/
def State.idleTick (s : State) : State :=
  { s with pin := .low, wave := extendWave s.wave .low, txUnderrun := s.txUnderrun || s.inGap }

/-- A tick passes while the serializer is as `s.shift` says. -/
def State.passTick (s : State) : State :=
  match s.shift with
  | some p => s.driveTick p
  | none => s.idleTick

/-- One tick of the time base: within a frame a symbol waiting in the ring is taken first (R196). -/
def State.tick (s : State) : State :=
  if s.tickEnabled then (if s.mustShift then s.shiftNext.passTick else s.passTick) else s

/-- COMPLETE (R198). -/
def State.complete (s : State) : State := if s.completeEnabled then { s with txInFlight := false } else s

/-- One step of an agent other than the HOST; a step that is not enabled does nothing. -/
def State.move (s : State) (m : Move) : State :=
  match m with
  | .pull free => s.pull free
  | .shift => s.shiftNext
  | .tick => s.tick
  | .complete => s.complete

/-- Steps of the other agents, in order. -/
def State.moves (s : State) (ms : List Move) : State := ms.foldl State.move s

/-! ## Interleaving with the HOST -/

/-- What the other agents do before the HOST's next step. Where nothing is on its way to the wire they have no step and no
choice is taken. -/
def State.agentsTurn (s : State) : State :=
  if s.quiet then s else s.takeTurn.2.moves s.takeTurn.1.moves

/-- One of the HOST's separate, unordered writes (R69). -/
inductive HostWrite where
  | byte (addr : Nat) (v : Byte)
  | used (index : Fin 256)
  deriving DecidableEq, Repr

def State.hostWrite (s : State) (w : HostWrite) : State :=
  match w with
  | .byte a v => s.storeByte a v
  | .used i => s.advanceUsed i

/-- The writes of `todo`, each after a turn of the other agents, in the order the schedule picks (R69). The number is that of
the writes. -/
def State.writeInterleaved : Nat → List HostWrite → State → State
  | 0, _, s => s
  | k + 1, todo, s =>
    let s' := s.takeTurn.2.moves s.takeTurn.1.moves
    let pick := s.takeTurn.1.pick % todo.length
    match todo[pick]? with
    | none => s'
    | some w => State.writeInterleaved k (todo.eraseIdx pick) (s'.hostWrite w)

/-- Separate writes of the HOST. Where nothing is on its way to the wire they cannot be told from one atomic write (R69). -/
def State.hostWrites (s : State) (ws : List HostWrite) : State :=
  if s.quiet then ws.foldl State.hostWrite s else State.writeInterleaved ws.length ws s

end Sys2Proof.Machine
end

