-- ==== Sys2Proof/Machine/Transmit.lean ====
section
/-! DEFINITION. The transmission driver's FLUSH (43_tx_driver.md). -/

namespace Sys2Proof.Machine

/-- The issue of a transmission over `leds` LEDs through the platform's `transmit` (R185, R188, R190). -/
def State.transmit (s : State) (leds : Fin 257) : State :=
  let r := s.platformCall (.transmit (bytesOfLeds leds).val)
  match r.1 with
  | .fail => r.2.raise (.hardwareFault .transmit)
  | .ok => (r.2.issue leds).respond .ok none

/-- One look at the pending `wait_all_done` (R185, R187, R236): the PLATFORM may answer `fail` at any time, and answers `ok`
only when no transmission is in flight; until then the HOST waits (log entry 10). -/
def State.awaitDone (s : State) (leds : Fin 257) : State :=
  match s.takeAnswer.1 with
  | .fail => s.takeAnswer.2.raise (.hardwareFault .waitAllDone)
  | .ok => if s.txInFlight then s.takeAnswer.2.wait leds else s.takeAnswer.2.transmit leds

/-- FLUSH as INIT, CLEAR_ALL and LED contain it (R112, R185): the clamp (R186), the call, the wait, the issue. -/
def State.flush (s : State) (count : Nat) : State :=
  (s.recordCall .waitAllDone).awaitDone (clampCount count s.usedCount)

/-- FLUSH (R185). -/
def execFlush (count : BitVec 24) (s : State) : Host.Outcome State Fault Refusal :=
  accept (headerWord 0x06 count) (fun s => s.flush count.toNat) s

end Sys2Proof.Machine
end

