-- ==== Sys2Proof/Machine/PixelBuffer.lean ====
section
/-! DEFINITION. The pixel buffer operations SET, GET and CLEAR_ALL (40_pixel_buffer.md). -/

namespace Sys2Proof.Machine

/-- The writes of a SET in range (R61, R69, R130): green, red, blue, and the high-water mark. -/
def setWrites (index : Fin 256) (c : Colour) : List HostWrite :=
  [.byte (pixelAddr index.val 0) c.green, .byte (pixelAddr index.val 1) c.red, .byte (pixelAddr index.val 2) c.blue,
    .used index]

/-- SET without its response, as LED contains it (R112, R130, R132): an index at or above `MAX_LEDS` is logged and nothing
is written. -/
def State.setLed (s : State) (index : Nat) (c : Colour) : State :=
  if h : index < 256 then s.hostWrites (setWrites ⟨index, h⟩ c) else s.raise (.logOutOfRange index)

/-- SET (R130): the result is `OK` also for an index out of range (R132). -/
def execSet (index : BitVec 24) (red green blue : Byte) (s : State) : Host.Outcome State Fault Refusal :=
  accept (headerWord 0x03 index) (fun s => (s.setLed index.toNat ⟨red, green, blue⟩).respond .ok none) s

/-- The data word of GET's response (R107, R134): green, red, blue. -/
def getData (m : Memory) (index : Nat) : Word :=
  packWord 0 (m.read (pixelAddr index 0)) (m.read (pixelAddr index 1)) (m.read (pixelAddr index 2))

/-- GET without its availability check (R134). -/
def State.getLed (s : State) (index : Nat) : State :=
  if index < maxLeds then s.respond .ok (some (getData s.pixels index)) else s.respond .error none

/-- GET (R134). -/
def execGet (index : BitVec 24) (s : State) : Host.Outcome State Fault Refusal :=
  accept (headerWord 0x04 index) (fun s => s.getLed index.toNat) s

/-- The zeroing writes of CLEAR_ALL (R136): the full buffer, each byte a write of its own (R69). -/
def clearWrites : List HostWrite := (List.range pixelBytes).map fun a => .byte a 0

/-- CLEAR_ALL as INIT contains it (R112, R136): zero the buffer, `used_count`, FLUSH. The SETs of R136 line 3 only bring
`used_count` from 0 to `DEFAULT_LED_COUNT` (R139). -/
def State.clearAll (s : State) : State :=
  ((s.hostWrites clearWrites).setUsed Config.defaultLedCount).flush Config.defaultLedCount.val

/-- CLEAR_ALL (R136). -/
def execClearAll (s : State) : Host.Outcome State Fault Refusal :=
  accept (headerWord 0x02 0) State.clearAll s

end Sys2Proof.Machine
end

