-- ==== Sys2Proof/Machine/Startup.lean ====
section
/-! DEFINITION. INIT (43_tx_driver.md). -/

namespace Sys2Proof.Machine

/-- The channel once `acquire_channel` has answered (R180). -/
def acquiredChannel (c : Channel) : Channel :=
  { c with
    acquired := true
    pin := Config.pin
    resolutionHz := Sys2Proof.resolutionHz
    blockSymbols := Config.blockSymbols
    queueDepth := Config.queueDepth }

/-- The arguments of `acquire_channel` (R180). -/
def acquireCall : Call := .acquireChannel Config.pin Sys2Proof.resolutionHz Config.blockSymbols Config.queueDepth

/-- INIT from the end of its three platform calls (R180). -/
def State.startBlock (s : State) : State :=
  State.clearAll { s with ring := [], pin := .low, txInFlight := false, initialized := true }

/-- INIT's `enable` and what follows it (R180). -/
def State.enableChannel (s : State) : State :=
  let r := s.platformCall .enable
  match r.1 with
  | .fail => r.2.raise (.hardwareFault .enable)
  | .ok => State.startBlock { r.2 with channel := { r.2.channel with enabled := true } }

/-- INIT's `register_pull_encoder` and what follows it (R180). -/
def State.registerEncoder (s : State) : State :=
  let r := s.platformCall .registerPullEncoder
  match r.1 with
  | .fail => r.2.raise (.hardwareFault .registerPullEncoder)
  | .ok => State.enableChannel { r.2 with channel := { r.2.channel with encoderRegistered := true } }

/-- INIT without its availability check (R180): acquire, register, enable, then CLEAR_ALL. -/
def State.initialise (s : State) : State :=
  let r := s.platformCall acquireCall
  match r.1 with
  | .fail => r.2.raise (.hardwareFault .acquireChannel)
  | .ok => State.registerEncoder { r.2 with channel := acquiredChannel r.2.channel }

/-- INIT (R180): a second INIT is refused, a halted block accepts nothing (R182). -/
def execInit (s : State) : Host.Outcome State Fault Refusal :=
  if s.halted then .fault .halted
  else if s.initialized then .next (s.raise (.refused (headerWord 0x01 0)))
  else .next s.initialise

end Sys2Proof.Machine
end

