-- ==== Sys2Proof/Machine/CommandHandler.lean ====
section
/-! DEFINITION. The command handler LED (44_command_handler.md) and the reserved commands (R109). -/

namespace Sys2Proof.Machine

/-- The parameters of LED in list order, the first of `params` being number `k` (R210, R212): each is range-checked,
quantized and stored before the next is looked at. The answer is the error that ended the list, if one did (R213). -/
def State.applyParams : List Word → Nat → State → Option Event × State
  | [], _, s => (none, s)
  | p :: ps, k, s =>
    if 255 < p.toNat then (some (.outOfRange k p), s)
    else State.applyParams ps (k + 1) (s.setLed k (quantize (byte0 p)))

/-- LED without its availability check (R210): no parameters is NoInput (R211); a range error ends the command without a
flush and without undoing anything (R213 to R215); otherwise as many LEDs as parameters are flushed (R217). -/
def State.ledCommand (s : State) (params : List Word) : State :=
  match params with
  | [] => s.raise .noInput
  | _ :: _ =>
    let r := State.applyParams params 0 s
    match r.1 with
    | some e => r.2.raise e
    | none => r.2.flush params.length

/-- LED (R210). -/
def execLed (params : List Word) (s : State) : Host.Outcome State Fault Refusal :=
  accept (headerWord 0x07 (BitVec.ofNat 24 params.length)) (fun s => s.ledCommand params) s

/-- A reserved command (R109): refused, in every state but a halted one. The event records the word that is reserved: the
header, or a SET's operand word (log entry 13). -/
def execReserved (header : Word) (operand : Option Word) (s : State) : Host.Outcome State Fault Refusal :=
  if s.halted then .fault .halted else .next (s.raise (.refused (operand.getD header)))

end Sys2Proof.Machine
end

