-- ==== Sys2Proof/Machine/Dispatch.lean ====
section
/-! DEFINITION. One arm per operation. -/

namespace Sys2Proof.Machine

def exec (i : Instr) (s : State) : Host.Outcome State Fault Refusal :=
  match i with
  | .init => Sys2Proof.Machine.execInit s
  | .clearAll => Sys2Proof.Machine.execClearAll s
  | .set index red green blue => Sys2Proof.Machine.execSet index red green blue s
  | .get index => Sys2Proof.Machine.execGet index s
  | .quant code => Sys2Proof.Machine.execQuant code s
  | .flush count => Sys2Proof.Machine.execFlush count s
  | .led params => Sys2Proof.Machine.execLed params s
  | .encPull symbolsWritten symbolsFree => Sys2Proof.Machine.execEncPull symbolsWritten symbolsFree s
  | .reserved header operand => Sys2Proof.Machine.execReserved header operand s

end Sys2Proof.Machine
end

