-- ==== Sys2Proof/Machine/Port.lean ====
section
/-! DEFINITION. The command port: taking the next command from the words offered (R104, R110), and placing one there. -/

namespace Sys2Proof.Machine

/-- The next command of the port and the state without its words; `none` while the words of no whole command have been
offered (log entry 7). -/
def State.takeCommand (s : State) : Option (Instr × State) :=
  match decode s.cmdWords with
  | .ok (i, rest) => some (i, { s with cmdWords := rest })
  | .error _ => none

/-- The HOST has offered exactly the command of these bits, and has no operation under way. -/
def State.placeCommand (s : State) (nbits w : Nat) : State :=
  { s with cmdWords := tableWords nbits w, host := .idle }

end Sys2Proof.Machine
end

