-- ==== Sys2Proof/Machine/Step.lean ====
section
/-! DEFINITION. One step of the machine: the other agents' turn, then the HOST's. -/

namespace Sys2Proof.Machine

/-- The HOST's step: it looks at the wait it is in (R187), or performs the next command of the port (R104), or has nothing
to do. -/
def hostStep (s : State) : Host.Outcome State Fault Refusal :=
  match s.host with
  | .waiting leds => .next (s.awaitDone leds)
  | .idle =>
    match s.takeCommand with
    | some (i, s') => exec i s'
    | none => .next s

/-- A step: none from a halted block (R233); otherwise the agents' turn (R238), then the HOST's. -/
def step (s : State) : Host.Outcome State Fault Refusal :=
  if s.halted then .fault .halted else hostStep s.agentsTurn

/-- `s` with the command of an opcode table row on the command port, where `step` takes its next command. -/
def State.withFetchWord (s : State) (nbits w : Nat) : State := s.placeCommand nbits w

end Sys2Proof.Machine
end

