-- ==== Sys2Proof/Safety.lean ====
section
/-! DEFINITION. What claims speak of: frames on the wire, the end of a run, and the invariant of every run. -/

namespace Sys2Proof.Machine

/-! ## Frames (R99, R100) -/

/-- The symbols of a transmission of `len` bytes of the buffer (R100, R172). -/
def frameOfBytes (m : Memory) (len : Nat) : List Symbol :=
  ((List.range len).flatMap fun a => Symbol.ofByte (m.read a)) ++ [Symbol.reset]

/-- `led(i)` (R99): green, red, blue. -/
def ledSymbols (m : Memory) (i : Nat) : List Symbol :=
  Symbol.ofByte (m.read (pixelAddr i 0)) ++ Symbol.ofByte (m.read (pixelAddr i 1)) ++
    Symbol.ofByte (m.read (pixelAddr i 2))

/-- `frame(n)` (R100). -/
def frameOfLeds (m : Memory) (n : Nat) : List Symbol := (List.range n).flatMap (ledSymbols m) ++ [Symbol.reset]

/-- How long a sequence of symbols is driven when no gap falls between them (R100). -/
def ticksOf (symbols : List Symbol) : Nat := (symbols.map Symbol.ticks).sum

/-- How many ticks a wire trace holds (R39). -/
def waveTicks (wave : List Segment) : Nat := (wave.map Segment.ticks).sum

/-- What one agent gets from the encoder over a whole schedule (R171): `symbols_written` is the sum of the counts returned,
and after `done` it asks no more. The answer is the symbols and whether `done` was signalled. -/
def pullAll (buf : Memory) (len : Nat) : List Nat → Nat → List Symbol × Bool
  | [], _ => ([], false)
  | free :: frees, written =>
    let r := encodePull buf len written free
    if r.done then (r.symbols, true)
    else (r.symbols ++ (pullAll buf len frees (written + r.count)).1, (pullAll buf len frees (written + r.count)).2)

/-! ## Frames of statements -/

/-- What no step of the ENGINE or the SERIALIZER writes (R242, R243): everything but the ring, the transmission's progress,
the pin and its traces, the pull interface, the underrun bit, and the schedule they were chosen from. -/
structure AgentsOnly (s t : State) : Prop where
  pixels : t.pixels = s.pixels
  usedCount : t.usedCount = s.usedCount
  txLength : t.txLength = s.txLength
  initialized : t.initialized = s.initialized
  halted : t.halted = s.halted
  channel : t.channel = s.channel
  host : t.host = s.host
  response : t.response = s.response
  events : t.events = s.events
  calls : t.calls = s.calls
  cmdWords : t.cmdWords = s.cmdWords
  answers : t.answers = s.answers

/-- The buffer with the three bytes of one LED stored (R61): green, red, blue. -/
def storeLed (m : Memory) (index : Nat) (c : Colour) : Memory :=
  ((m.write (pixelAddr index 0) c.green).write (pixelAddr index 1) c.red).write (pixelAddr index 2) c.blue

/-- The buffer after the parameters `params` of an LED command, the first being number `k` (R210, R216): each in-range LED
is stored, a parameter at or above `MAX_LEDS` stores nothing. -/
def storeParams (m : Memory) (k : Nat) : List Word → Memory
  | [] => m
  | p :: ps => storeParams (if k < maxLeds then storeLed m k (quantize (byte0 p)) else m) (k + 1) ps

/-- `used_count` after parameters number `k` to `k + n - 1` were stored (R133, R217). -/
def usedAfter (used : Fin 257) (k n : Nat) : Fin 257 :=
  if n = 0 then used else ⟨max used.val (min (k + n) maxLeds), by have := used.isLt; simp only [maxLeds]; omega⟩

/-- The log events of parameters number `k` to `k + n - 1` (R216, R231). -/
def logsOf (k n : Nat) : List Event :=
  ((List.range' k n).filter fun i => maxLeds ≤ i).map Event.logOutOfRange

/-! ## The end of a run (R280) -/

/-- The run has ended: the HOST has no operation left and none under way, nothing is in flight, nothing has halted, and no
underrun has been recorded (a state with a fault is never final: 93_implementation_defined.md U10). -/
def RunEnded (s : State) : Prop :=
  s.cmdWords = [] ∧ s.host = .idle ∧ s.txInFlight = false ∧ s.halted = false ∧ s.txUnderrun = false

/-! ## The invariant of every run -/

/-- The configuration after INIT (R35, R41): the parameters and the three flags. -/
def Channel.configured (c : Channel) : Prop :=
  c = ⟨true, Config.pin, Sys2Proof.resolutionHz, Config.blockSymbols, Config.queueDepth, true, true⟩

/-- What holds in every state of a run: the buffer is canonical; the ring holds at most what its capacity allows (R29); what
is on its way to the wire belongs to a transmission in flight (R24, R193), and that needs INIT (R182); `symbols_written`
counts whole bytes until RESET is pushed (R26) and the ring holds none that was not counted; the pin is as the serializer
drives it (R30); a waiting HOST has been initialised (R182). -/
structure State.Inv (s : State) : Prop where
  memory : s.pixels.wf
  capacity : s.ring.length ≤ s.channel.blockSymbols
  quietWhenIdle : s.txInFlight = false → s.ring = [] ∧ s.shift = none
  initFirst : s.initialized = false → s.txInFlight = false ∧ s.host = .idle
  configured : s.initialized = true → s.channel.configured
  counted : s.ring.length ≤ s.symbolsWritten
  wholeBytes : s.txDone = false → 8 ∣ s.symbolsWritten ∧ s.symbolsWritten ≤ 8 * s.txLength.val
  doneCount : s.txDone = true → s.symbolsWritten = 8 * s.txLength.val + 1
  pinDriven : s.pin = pinLevel s.shift
  shiftLives : ∀ p, s.shift = some p → 1 ≤ p.ticksLeft ∧ p.symbol ∈ [Symbol.zero, Symbol.one, Symbol.reset]
  ringCanonical : ∀ sym ∈ s.ring, sym ∈ [Symbol.zero, Symbol.one, Symbol.reset]

end Sys2Proof.Machine
end

