-- ==== Sys2Proof/Certificates/Slice0/Obligations.lean ====
section
/-! DEFINITION. The statements for the provers. Each docstring names the rule or section it formalises and, where a clause
rests on a decision of the spec or of the model, says so. -/

open Sys2Proof
open Sys2Proof.Machine

/-! ## Encodings (30_encoding.md) -/

/-- 30_encoding.md sections 6 to 8 (the encodings are the spec's decision D2): the words of a well-formed operation decode to
it and to nothing else, whatever words follow. ENC_PULL has no words, so the premise is never met for it. -/
def Obligations.DecodeOfEncodeIsTheOperation : Prop :=
  ∀ (i : Instr) (ws rest : List Word), i.wellFormed = true → encode i = some ws → decode (ws ++ rest) = .ok (i, rest)

/-- 30_encoding.md sections 6 to 8 (decision D2): a word sequence that decodes begins with exactly the words of a well-formed
operation, so each word sequence has one meaning. -/
def Obligations.DecodedWordsAreTheEncoding : Prop :=
  ∀ (ws rest : List Word) (i : Instr), decode ws = .ok (i, rest) →
    i.wellFormed = true ∧ ∃ e, encode i = some e ∧ ws = e ++ rest

/-- 30_encoding.md section 6 and 95_test_vectors.md section 2 (decision D2): words written out from the table of the spec. -/
def Obligations.WrittenOutWordsDecode : Prop :=
  decode [0b00000001000000000000000000000000#32] = .ok (.init, []) ∧
  decode [0b00000010000000000000000000000000#32] = .ok (.clearAll, []) ∧
  decode [0b00000011000000000000000000000010#32, 0b00000000000100010010001000110011#32] =
    .ok (.set 2 0x11 0x22 0x33, []) ∧
  decode [0b00000100000000000000000100000000#32] = .ok (.get 256, []) ∧
  decode [0b00000101000000000000000000100100#32] = .ok (.quant 0x24, []) ∧
  decode [0b00000110000000000000000000000101#32] = .ok (.flush 5, []) ∧
  decode [0b00000111000000000000000000000010#32, 10#32, 999#32] = .ok (.led [10, 999], []) ∧
  decode [0b00001000000000000000000000000000#32] = .ok (.reserved 0x08000000 none, [])

/-- 30_encoding.md section 8 (decision D30): every header with a reserved `op` or a nonzero must-be-zero field is a reserved
command of one word, and a SET header with an operand word whose bits 31:24 are not zero is one of two words. -/
def Obligations.ReservedWordsDecodeToReserved : Prop :=
  (∀ (op : BitVec 8) (arg : BitVec 24) (rest : List Word),
    (op = 0 ∨ 8 ≤ op.toNat ∨ (op = 1 ∧ arg ≠ 0) ∨ (op = 2 ∧ arg ≠ 0) ∨ (op = 5 ∧ 256 ≤ arg.toNat)) →
      decode ((op ++ arg) :: rest) = .ok (.reserved (op ++ arg) none, rest)) ∧
  (∀ (arg b : BitVec 24) (z : Byte) (rest : List Word), z ≠ 0 →
    decode ((0x03#8 ++ arg) :: (z ++ b) :: rest) = .ok (.reserved (0x03#8 ++ arg) (some (z ++ b)), rest))

/-- 30_encoding.md section 6 (decision D2): on a port narrower than 32 bits the words travel most significant byte first. -/
def Obligations.NarrowPortCarriesTheWords : Prop :=
  ∀ (ws : List Word) (tail : List Byte), tail.length < 4 →
    wordsOfBytes (ws.flatMap bytesOfWord ++ tail) = (ws, tail)

/-- 30_encoding.md section 3 (format SYMW, decision D4): the word of a symbol gives it back, and the three canonical symbols
have the words the spec lists. -/
def Obligations.SymbolWordRoundTrips : Prop :=
  (∀ sym : Symbol, sym.d0 < 2 ^ 15 → sym.d1 < 2 ^ 15 → Symbol.ofWord sym.toWord = sym) ∧
  Symbol.zero.toWord = 0x00098003 ∧ Symbol.one.toWord = 0x00038009 ∧ Symbol.reset.toWord = 0x00FA00FA

/-- The text form (30_encoding.md sections 5, 6 and 9): `+LED` alone is LED without parameters; `+LED=` followed by decimal
numbers, digits in any number and commas between, is LED with their values, for values that fit 32 bits. That larger values
have no operation, and that a list of `2^24` numbers or more has one although no word form, are the model's choices (log entry
21). -/
def Obligations.TextFormIsTheLedCommand : Prop :=
  parseLedText ['+', 'L', 'E', 'D'] = some (.led []) ∧
  ∀ numbers : List (List (Fin 10)), numbers ≠ [] → (∀ ds ∈ numbers, ds ≠ []) →
    (∀ ds ∈ numbers, ds.foldl (fun v d => v * 10 + d.val) 0 < 2 ^ 32) →
    parseLedText (['+', 'L', 'E', 'D', '='] ++
        [','].intercalate (numbers.map fun ds => ds.map fun d => Char.ofNat (48 + d.val))) =
      some (.led (numbers.map fun ds => BitVec.ofNat 32 (ds.foldl (fun v d => v * 10 + d.val) 0)))

/-! ## The quantizer (41_quantizer.md) -/

/-- QUANT's result (41_quantizer.md; the operation is decision D21, its data word decision D3) through the literals of the
two tables and the three index fields, in every state but a halted one; nothing else changes. -/
def Obligations.QuantAnswersTheTables : Prop :=
  ∀ (code : Byte) (s : State), s.halted = false →
    ∃ red green blue : Byte,
      ([0, 2, 7, 25, 57, 106, 171, 255] : List Byte)[((code >>> 5) &&& 7).toNat]? = some red ∧
      ([0, 2, 7, 25, 57, 106, 171, 255] : List Byte)[((code >>> 2) &&& 7).toNat]? = some green ∧
      ([0, 2, 57, 255] : List Byte)[(code &&& 3).toNat]? = some blue ∧
      exec (.quant code) s =
        .next { s with response := some ⟨.ok, some (0#8 ++ red ++ green ++ blue)⟩, host := .idle }

/-- 41_quantizer.md, the consequences the spec derives from the tables: the end points, both tables strictly increasing, and
no two codes with one triple. -/
def Obligations.QuantizeIsInjectiveAndIncreasing : Prop :=
  quantize 0x00 = ⟨0, 0, 0⟩ ∧ quantize 0xFF = ⟨255, 255, 255⟩ ∧
  (∀ i j : BitVec 3, i < j → lut3 i < lut3 j) ∧ (∀ i j : BitVec 2, i < j → lut2 i < lut2 j) ∧
  ∀ c d : Byte, quantize c = quantize d → c = d

/-! ## The pixel buffer (40_pixel_buffer.md) -/

/-- R131, the store law, in every state with a canonical buffer, also while a transmission is in flight: a SET in range runs;
then `MemRead(3i, 3) = [g, r, b]`, and no byte outside `3i .. 3i + 2` has changed. -/
def Obligations.SetStoresGreenRedBlue : Prop :=
  ∀ (s : State) (index : BitVec 24) (r g b : Byte),
    s.halted = false → s.initialized = true → s.pixels.wf → index.toNat < 256 →
    ∃ t, exec (.set index r g b) s = .next t ∧
      memRead t.pixels (3 * index.toNat) 3 = [g, r, b] ∧
      ∀ a, a < 3 * index.toNat ∨ 3 * index.toNat + 2 < a → t.pixels.read a = s.pixels.read a

/-- 40_pixel_buffer.md SET, the `used_count` law: after a SET in range `used_count` is the greater of its old value and
`index + 1`; the result is OK. -/
def Obligations.SetRaisesTheHighWaterMark : Prop :=
  ∀ (s : State) (index : BitVec 24) (r g b : Byte),
    s.halted = false → s.initialized = true → s.pixels.wf → index.toNat < 256 →
    ∃ t, exec (.set index r g b) s = .next t ∧ t.usedCount.val = max s.usedCount.val (index.toNat + 1) ∧
      t.response = some ⟨.ok, none⟩

/-- 40_pixel_buffer.md SET, out of range (the log event is decision D19, the result decision D3): nothing is written, nothing
is aliased, for every index from 256 up. -/
def Obligations.SetOutOfRangeIsANoOp : Prop :=
  ∀ (s : State) (index : BitVec 24) (r g b : Byte),
    s.halted = false → s.initialized = true → 256 ≤ index.toNat →
    exec (.set index r g b) s =
      .next { s with
        events := s.events ++ [.logOutOfRange index.toNat]
        response := some ⟨.ok, none⟩
        host := .idle }

/-- The frame of SET in range (40_pixel_buffer.md; the interleaving of 20_memory.md is decision D13): beside the LED's bytes,
`used_count` and the response, only what the other agents write can change; where nothing is on its way to the wire nothing
else does. -/
def Obligations.SetChangesNothingElse : Prop :=
  ∀ (s : State) (index : BitVec 24) (r g b : Byte),
    s.halted = false → s.initialized = true → s.pixels.wf → (hi : index.toNat < 256) →
    ∃ u, AgentsOnly s u ∧ (s.quiet = true → u = s) ∧
      exec (.set index r g b) s =
        .next { u with
          pixels := storeLed s.pixels index.toNat ⟨r, g, b⟩
          usedCount := advanceCount ⟨index.toNat, hi⟩ s.usedCount
          response := some ⟨.ok, none⟩
          host := .idle }

/-- GET (40_pixel_buffer.md; the operation is decision D21, its data word decision D3): the stored bytes in the order green,
red, blue for an index in range, ERROR for another, and nothing changes but the response. -/
def Obligations.GetAnswersTheStoredBytes : Prop :=
  ∀ (s : State) (index : BitVec 24), s.halted = false → s.initialized = true →
    (index.toNat < 256 →
      exec (.get index) s =
        .next { s with
          response := some ⟨.ok, some (0#8 ++ s.pixels.read (3 * index.toNat) ++ s.pixels.read (3 * index.toNat + 1) ++
            s.pixels.read (3 * index.toNat + 2))⟩
          host := .idle }) ∧
    (256 ≤ index.toNat → exec (.get index) s = .next { s with response := some ⟨.error, none⟩, host := .idle })

/-- The source's first testable property at the port (95_test_vectors.md S1): SET then GET answers green, red, blue, also while
a transmission is in flight. -/
def Obligations.SetThenGetAnswersGreenRedBlue : Prop :=
  ∀ (s : State) (index : BitVec 24) (r g b : Byte),
    s.halted = false → s.initialized = true → s.pixels.wf → index.toNat < 256 →
    ∃ t, exec (.set index r g b) s = .next t ∧
      exec (.get index) t =
        .next { t with response := some ⟨.ok, some (0#8 ++ g ++ r ++ b)⟩, host := .idle }

/-- 40_pixel_buffer.md CLEAR_ALL, end state, in every state with a canonical buffer, whatever becomes of its FLUSH: all bytes
are zero and `used_count` is `DEFAULT_LED_COUNT`. -/
def Obligations.ClearAllZeroesTheBuffer : Prop :=
  ∀ s : State, s.halted = false → s.initialized = true → s.pixels.wf →
    ∃ t, exec .clearAll s = .next t ∧ (∀ a, t.pixels.read a = 0) ∧ t.usedCount = Config.defaultLedCount

/-- CLEAR_ALL as a whole where nothing is on its way to the wire and the platform answers `ok` (40_pixel_buffer.md,
43_tx_driver.md FLUSH): one transmission of `DEFAULT_LED_COUNT` LEDs is issued and nothing else changes; where that is a
transmission of zero bytes and `ZERO_LENGTH_TX = fault` (decision D10) the block halts instead. -/
def Obligations.ClearAllIssuesTheBlackFrame : Prop :=
  ∀ (s : State) (rest : List Answer),
    s.halted = false → s.initialized = true → s.pixels.wf → s.quiet = true → s.answers = .ok :: .ok :: rest →
    ((Config.defaultLedCount ≠ 0 ∨ Config.zeroLengthTx = .resetOnly) →
      exec .clearAll s =
        .next { s with
          pixels := []
          usedCount := Config.defaultLedCount
          txLength := bytesOfLeds Config.defaultLedCount
          symbolsWritten := 0
          txDone := false
          txInFlight := true
          response := some ⟨.ok, none⟩
          host := .idle
          calls := s.calls ++ [.waitAllDone, .transmit (3 * Config.defaultLedCount.val)]
          answers := rest }) ∧
    ((Config.defaultLedCount = 0 ∧ Config.zeroLengthTx = .fault) →
      exec .clearAll s =
        .next { s with
          pixels := []
          usedCount := 0
          events := s.events ++ [.hardwareFault .transmit]
          halted := true
          response := none
          host := .idle
          calls := s.calls ++ [.waitAllDone, .transmit 0]
          answers := rest })

/-- 40_pixel_buffer.md CLEAR_ALL (the equivalence the spec derives): lines 1 to 3 of its pseudocode, with the SETs of
`DEFAULT_LED_COUNT` black LEDs written out, leave what the model's CLEAR_ALL leaves before its FLUSH. -/
def Obligations.ClearAllSetsAgreeWithAssignment : Prop :=
  ∀ s : State, s.pixels.wf → s.quiet = true →
    (List.range Config.defaultLedCount.val).foldl (fun u k => u.setLed k ⟨0, 0, 0⟩) ((s.hostWrites clearWrites).setUsed 0) =
      (s.hostWrites clearWrites).setUsed Config.defaultLedCount

/-! ## INIT (43_tx_driver.md, 10_state.md section 7) -/

/-- INIT from a state before INIT where the platform answers `ok` (43_tx_driver.md INIT; the order of the calls is decision
D28): the channel is configured, the buffer is zero, the five calls are made in order, and the black frame is issued; where
that is a transmission of zero bytes and `ZERO_LENGTH_TX = fault` (decision D10) the block halts instead. -/
def Obligations.InitBringsUpTheBlock : Prop :=
  ∀ (s : State) (rest : List Answer),
    s.halted = false → s.initialized = false → s.pixels.wf → s.quiet = true →
    s.answers = .ok :: .ok :: .ok :: .ok :: .ok :: rest →
    ∃ t, exec .init s = .next t ∧
      t.initialized = true ∧ (∀ a, t.pixels.read a = 0) ∧ t.usedCount = Config.defaultLedCount ∧
      t.channel = ⟨true, Config.pin, 10000000, Config.blockSymbols, Config.queueDepth, true, true⟩ ∧
      t.ring = [] ∧ t.pin = .low ∧ t.shift = none ∧
      t.calls = s.calls ++ [.acquireChannel Config.pin 10000000 Config.blockSymbols Config.queueDepth, .registerPullEncoder,
        .enable, .waitAllDone, .transmit (3 * Config.defaultLedCount.val)] ∧
      t.answers = rest ∧ t.wire = s.wire ∧ t.cmdWords = s.cmdWords ∧
      ((Config.defaultLedCount ≠ 0 ∨ Config.zeroLengthTx = .resetOnly) →
        t.halted = false ∧ t.response = some ⟨.ok, none⟩ ∧ t.events = s.events ∧ t.txInFlight = true ∧
        t.txLength.val = 3 * Config.defaultLedCount.val ∧ t.symbolsWritten = 0 ∧ t.txDone = false) ∧
      ((Config.defaultLedCount = 0 ∧ Config.zeroLengthTx = .fault) →
        t.halted = true ∧ t.response = none ∧ t.events = s.events ++ [.hardwareFault .transmit] ∧ t.txInFlight = false)

/-- INIT and its five platform calls in order, the last two inside its CLEAR_ALL (43_tx_driver.md INIT; which calls can fail
is decision D12, their order decision D28): the first failure halts the block with the call's name, no response is given, and
what was done before it stays done: where `wait_all_done` or `transmit` fails the block is initialised and its buffer zero.
Before INIT nothing is on its way to the wire, which the last two clauses have as a premise. -/
def Obligations.InitHaltsAtTheFirstFailedCall : Prop :=
  ∀ (s : State) (rest : List Answer), s.halted = false → s.initialized = false →
    (s.answers = .fail :: rest →
      exec .init s =
        .next { s with
          events := s.events ++ [.hardwareFault .acquireChannel]
          halted := true
          response := none
          host := .idle
          calls := s.calls ++ [.acquireChannel Config.pin 10000000 Config.blockSymbols Config.queueDepth]
          answers := rest }) ∧
    (s.answers = .ok :: .fail :: rest →
      exec .init s =
        .next { s with
          events := s.events ++ [.hardwareFault .registerPullEncoder]
          halted := true
          response := none
          host := .idle
          channel := { s.channel with
            acquired := true
            pin := Config.pin
            resolutionHz := 10000000
            blockSymbols := Config.blockSymbols
            queueDepth := Config.queueDepth }
          calls := s.calls ++ [.acquireChannel Config.pin 10000000 Config.blockSymbols Config.queueDepth,
            .registerPullEncoder]
          answers := rest }) ∧
    (s.answers = .ok :: .ok :: .fail :: rest →
      exec .init s =
        .next { s with
          events := s.events ++ [.hardwareFault .enable]
          halted := true
          response := none
          host := .idle
          channel := ⟨true, Config.pin, 10000000, Config.blockSymbols, Config.queueDepth, true, s.channel.enabled⟩
          calls := s.calls ++ [.acquireChannel Config.pin 10000000 Config.blockSymbols Config.queueDepth,
            .registerPullEncoder, .enable]
          answers := rest }) ∧
    (s.pixels.wf → s.quiet = true → s.answers = .ok :: .ok :: .ok :: .fail :: rest →
      exec .init s =
        .next { s with
          pixels := []
          usedCount := Config.defaultLedCount
          ring := []
          pin := .low
          txInFlight := false
          initialized := true
          events := s.events ++ [.hardwareFault .waitAllDone]
          halted := true
          response := none
          host := .idle
          channel := ⟨true, Config.pin, 10000000, Config.blockSymbols, Config.queueDepth, true, true⟩
          calls := s.calls ++ [.acquireChannel Config.pin 10000000 Config.blockSymbols Config.queueDepth,
            .registerPullEncoder, .enable, .waitAllDone]
          answers := rest }) ∧
    (s.pixels.wf → s.quiet = true → s.answers = .ok :: .ok :: .ok :: .ok :: .fail :: rest →
      exec .init s =
        .next { s with
          pixels := []
          usedCount := Config.defaultLedCount
          ring := []
          pin := .low
          txInFlight := false
          initialized := true
          events := s.events ++ [.hardwareFault .transmit]
          halted := true
          response := none
          host := .idle
          channel := ⟨true, Config.pin, 10000000, Config.blockSymbols, Config.queueDepth, true, true⟩
          calls := s.calls ++ [.acquireChannel Config.pin 10000000 Config.blockSymbols Config.queueDepth,
            .registerPullEncoder, .enable, .waitAllDone, .transmit (3 * Config.defaultLedCount.val)]
          answers := rest })

/-- 43_tx_driver.md, availability of operations (decision D11): before INIT every operation of the port but INIT and QUANT is
refused with ERROR, and nothing else changes; after INIT a second INIT is. That the event Refused records the header word,
also of a command of several words, is the model's choice (log entry 13). -/
def Obligations.OperationsOutOfTurnAreRefused : Prop :=
  (∀ (s : State) (i : Instr) (h : Word) (ws : List Word),
    s.halted = false → s.initialized = false → encode i = some (h :: ws) → i ≠ .init → (∀ c, i ≠ .quant c) →
    (∀ w o, i ≠ .reserved w o) →
    exec i s =
      .next { s with events := s.events ++ [.refused h], response := some ⟨.error, none⟩, host := .idle }) ∧
  (∀ s : State, s.halted = false → s.initialized = true →
    exec .init s =
      .next { s with events := s.events ++ [.refused 0x01000000], response := some ⟨.error, none⟩, host := .idle })

/-- 30_encoding.md section 8 (decision D30; which word the event records is log entry 13): a reserved command answers ERROR and
changes no state, in every state but a halted one. -/
def Obligations.ReservedCommandIsRefused : Prop :=
  ∀ (s : State) (header : Word) (operand : Option Word), s.halted = false →
    exec (.reserved header operand) s =
      .next { s with
        events := s.events ++ [.refused (operand.getD header)]
        response := some ⟨.error, none⟩
        host := .idle }

/-! ## FLUSH (43_tx_driver.md) -/

/-- FLUSH where nothing is in flight and the platform answers `ok`: a transmission over `min(count, used_count)` LEDs is
issued, and nothing else changes. -/
def Obligations.FlushIssuesTheClampedCount : Prop :=
  ∀ (s : State) (count : BitVec 24) (rest : List Answer),
    s.halted = false → s.initialized = true → s.txInFlight = false → s.answers = .ok :: .ok :: rest →
    min count.toNat s.usedCount.val ≠ 0 →
    ∃ t, exec (.flush count) s = .next t ∧ t.txLength.val = 3 * min count.toNat s.usedCount.val ∧
      t = { s with
        txLength := t.txLength
        symbolsWritten := 0
        txDone := false
        txInFlight := true
        response := some ⟨.ok, none⟩
        host := .idle
        calls := s.calls ++ [.waitAllDone, .transmit (3 * min count.toNat s.usedCount.val)]
        answers := rest }

/-- FLUSH of zero LEDs (43_tx_driver.md; decision D10): with `reset_only` a transmission of zero bytes is issued, with `fault`
the `transmit` call fails and the block halts. -/
def Obligations.FlushOfNoLedsFollowsTheParameter : Prop :=
  ∀ (s : State) (count : BitVec 24) (rest : List Answer),
    s.halted = false → s.initialized = true → s.txInFlight = false → s.answers = .ok :: .ok :: rest →
    min count.toNat s.usedCount.val = 0 →
    (Config.zeroLengthTx = .resetOnly →
      exec (.flush count) s =
        .next { s with
          txLength := 0
          symbolsWritten := 0
          txDone := false
          txInFlight := true
          response := some ⟨.ok, none⟩
          host := .idle
          calls := s.calls ++ [.waitAllDone, .transmit 0]
          answers := rest }) ∧
    (Config.zeroLengthTx = .fault →
      exec (.flush count) s =
        .next { s with
          events := s.events ++ [.hardwareFault .transmit]
          halted := true
          response := none
          host := .idle
          calls := s.calls ++ [.waitAllDone, .transmit 0]
          answers := rest })

/-- FLUSH while a transmission is in flight (43_tx_driver.md, the wait; 95_test_vectors.md section 2.5): it writes none of the
four transmission registers, makes no `transmit` call, and gives no response yet. That an `ok` drawn meanwhile is used up and
means `not answered yet` is the model's choice (log entry 10). -/
def Obligations.FlushWaitsForTheTransmissionInFlight : Prop :=
  ∀ (s : State) (count : BitVec 24) (rest : List Answer),
    s.halted = false → s.initialized = true → s.txInFlight = true → s.answers = .ok :: rest →
    ∃ leds : Fin 257, leds.val = min count.toNat s.usedCount.val ∧
      exec (.flush count) s =
        .next { s with
          host := .waiting leds
          response := none
          calls := s.calls ++ [.waitAllDone]
          answers := rest }

/-- A step of a waiting HOST (43_tx_driver.md, the wait): it waits on while the transmission is in flight, and issues its own
when it is over; over no LEDs it issues a transmission of zero bytes or halts, as `ZERO_LENGTH_TX` says (decision D10). That a
step looks at the wait once, after the other agents' turn, and uses up one answer at each look, is the model's choice (log
entries 10 and 22). -/
def Obligations.WaitingFlushIssuesAfterCompletion : Prop :=
  ∀ (s : State) (leds : Fin 257), s.halted = false → s.host = .waiting leds →
    (∀ rest, s.answers = .ok :: rest → s.agentsTurn.txInFlight = true →
      step s = .next { s.agentsTurn with response := none, answers := rest }) ∧
    (∀ rest, s.answers = .ok :: .ok :: rest → s.agentsTurn.txInFlight = false → leds ≠ 0 →
      step s =
        .next { s.agentsTurn with
          txLength := bytesOfLeds leds
          symbolsWritten := 0
          txDone := false
          txInFlight := true
          response := some ⟨.ok, none⟩
          host := .idle
          calls := s.calls ++ [.transmit (3 * leds.val)]
          answers := rest }) ∧
    (∀ rest, s.answers = .ok :: .ok :: rest → s.agentsTurn.txInFlight = false → leds = 0 →
      (Config.zeroLengthTx = .resetOnly →
        step s =
          .next { s.agentsTurn with
            txLength := 0
            symbolsWritten := 0
            txDone := false
            txInFlight := true
            response := some ⟨.ok, none⟩
            host := .idle
            calls := s.calls ++ [.transmit 0]
            answers := rest }) ∧
      (Config.zeroLengthTx = .fault →
        step s =
          .next { s.agentsTurn with
            events := s.events ++ [.hardwareFault .transmit]
            halted := true
            response := none
            host := .idle
            calls := s.calls ++ [.transmit 0]
            answers := rest }))

/-- 60_exceptions.md (which calls can fail, and that a halt is absorbing, is decision D12): a failed `wait_all_done` or
`transmit` halts the block; the event names the call, no response is given, and nothing else changes. That the wait may fail
at any time, also while a transmission is in flight, is log entry 10. -/
def Obligations.FlushHaltsWhenACallFails : Prop :=
  ∀ (s : State) (count : BitVec 24) (rest : List Answer), s.halted = false → s.initialized = true →
    (s.answers = .fail :: rest →
      exec (.flush count) s =
        .next { s with
          events := s.events ++ [.hardwareFault .waitAllDone]
          halted := true
          response := none
          host := .idle
          calls := s.calls ++ [.waitAllDone]
          answers := rest }) ∧
    (s.txInFlight = false → s.answers = .ok :: .fail :: rest →
      exec (.flush count) s =
        .next { s with
          events := s.events ++ [.hardwareFault .transmit]
          halted := true
          response := none
          host := .idle
          calls := s.calls ++ [.waitAllDone, .transmit (3 * min count.toNat s.usedCount.val)]
          answers := rest })

/-- 43_tx_driver.md and 60_exceptions.md (decisions D11, D12): a halted block takes no step, accepts no operation, and no agent
steps. -/
def Obligations.HaltedBlockTakesNoStep : Prop :=
  ∀ s : State, s.halted = true →
    step s = .fault .halted ∧ (∀ i, exec i s = .fault .halted) ∧ ∀ ms : List Move, s.moves ms = s

/-! ## The encoder (42_encoder.md) -/

/-- R164: with fewer than 8 free slots, at any position, the encoder produces nothing, leaves `done` untouched and changes
no state. -/
def Obligations.EncPullWithoutRoomProducesNothing : Prop :=
  ∀ (s : State) (written free : Nat), s.halted = false → free < 8 →
    exec (.encPull written free) s = .next { s with pullResponse := some ⟨0, [], false⟩ }

/-- R165, R174: with 8 free slots or more and a position in range, exactly 8 symbols, symbol `j` being ONE if bit `7 - j` of
the byte is 1 and ZERO otherwise; `done` is not signalled and no register is written. -/
def Obligations.EncPullSendsAByteMsbFirst : Prop :=
  ∀ (s : State) (written free : Nat), s.halted = false → 8 ≤ free → written / 8 < s.txLength.val →
    ∃ syms : List Symbol,
      syms.length = 8 ∧
      (∀ j, j < 8 → syms[j]? =
        some (if (s.pixels.read (written / 8) >>> (7 - j)) &&& 1#8 = 1#8 then Symbol.one else Symbol.zero)) ∧
      exec (.encPull written free) s = .next { s with pullResponse := some ⟨8, syms, false⟩ }

/-- R166: with 8 free slots or more and a position at or past the end, exactly one RESET, `done` signalled. -/
def Obligations.EncPullEndsWithReset : Prop :=
  ∀ (s : State) (written free : Nat), s.halted = false → 8 ≤ free → s.txLength.val ≤ written / 8 →
    exec (.encPull written free) s = .next { s with pullResponse := some ⟨1, [Symbol.reset], true⟩ }

/-- 42_encoder.md, schedule independence (the spec marks it derived): over an unchanged buffer, whatever the values of
`symbols_free`, the symbols returned are always a beginning of the frame; the transmission is done exactly when `len + 1` of
the values were 8 or more, and then the symbols are the whole frame. -/
def Obligations.FrameDoesNotDependOnTheSchedule : Prop :=
  ∀ (buf : Memory) (len : Nat) (frees : List Nat),
    (pullAll buf len frees 0).1 <+: frameOfBytes buf len ∧
    ((pullAll buf len frees 0).2 = true ↔ len + 1 ≤ frees.countP (fun f => 8 ≤ f)) ∧
    ((pullAll buf len frees 0).2 = true → (pullAll buf len frees 0).1 = frameOfBytes buf len)

/-- 30_encoding.md section 4 (the counts are marked derived, the 500 ticks are decision D6): a frame of `n` LEDs, green, red,
blue for each, LED 0 first, is the frame of its `3n` bytes, has `24n + 1` symbols and lasts `288n + 500` ticks. -/
def Obligations.FrameOfLedsIsTheFrameOfItsBytes : Prop :=
  ∀ (m : Memory) (n : Nat),
    frameOfLeds m n = frameOfBytes m (3 * n) ∧ (frameOfLeds m n).length = 24 * n + 1 ∧
    ticksOf (frameOfLeds m n) = 288 * n + 500

/-! ## The hardware agents (43_tx_driver.md) -/

/-- 43_tx_driver.md PULL (the bound on `symbols_free` is decision D9): a PULL changes the ring's occupancy by 0, 8 or 1, never
beyond its capacity, and counts what it pushes. -/
def Obligations.PullNeverOverflowsTheRing : Prop :=
  ∀ (s : State) (free : Nat), s.ring.length ≤ s.channel.blockSymbols →
    ∃ pushed, (s.pull free).ring = s.ring ++ pushed ∧ pushed.length ∈ [0, 1, 8] ∧
      (s.pull free).ring.length ≤ s.channel.blockSymbols ∧
      (s.pull free).symbolsWritten = s.symbolsWritten + pushed.length

/-- R195: once `tx_done` is set no schedule of the agents invokes the encoder again or writes another symbol, alone or beside an
operation of the HOST, until a FLUSH (also inside INIT, CLEAR_ALL or LED) issues a transmission and so clears it. -/
def Obligations.NoPullAfterDone : Prop :=
  (∀ (s : State) (ms : List Move), s.txDone = true →
    (s.moves ms).txDone = true ∧ (s.moves ms).symbolsWritten = s.symbolsWritten ∧
      (s.moves ms).pullResponse = s.pullResponse) ∧
  (∀ (s t : State) (i : Instr), s.txDone = true → exec i s = .next t →
    (t.txDone = true ∧ t.symbolsWritten = s.symbolsWritten) ∨
    (t.txDone = false ∧ t.symbolsWritten = 0 ∧ t.txInFlight = true ∧
      (i = .init ∨ i = .clearAll ∨ (∃ c, i = .flush c) ∨ ∃ ps, i = .led ps)))

/-- 20_memory.md section 4 (the FIFO discipline is decision D24): over any schedule of the agents, what has reached the wire
and what still is in the ring are together what was there before, then what was pushed, in order: nothing is dropped, repeated
or reordered. -/
def Obligations.RingIsFirstInFirstOut : Prop :=
  ∀ (s : State) (ms : List Move), ∃ pushed,
    (s.moves ms).wire ++ (s.moves ms).ring = s.wire ++ s.ring ++ pushed ∧
    (s.moves ms).symbolsWritten = s.symbolsWritten + pushed.length

/-- 43_tx_driver.md COMPLETE (its instant is decision D20) and the wait, 60_exceptions.md section 2: a transmission in flight
ends only by COMPLETE, after RESET was pushed, the ring drained and the last symbol driven for all its ticks. So no operation
of an initialised HOST and no step ends one but by a COMPLETE among the moves of the other agents: it leaves `tx_done` set,
the ring empty and the serializer idle. -/
def Obligations.TransmissionEndsOnlyByComplete : Prop :=
  (∀ (s : State) (m : Move), s.txInFlight = true → (s.move m).txInFlight = false →
    m = .complete ∧ s.txDone = true ∧ s.ring = [] ∧ s.shift = none ∧ s.move m = { s with txInFlight := false }) ∧
  (∀ (s t : State) (i : Instr), s.initialized = true → s.txInFlight = true → exec i s = .next t → t.txInFlight = false →
    t.txDone = true ∧ t.ring = [] ∧ t.shift = none) ∧
  (∀ s t : State, s.initialized = true → s.txInFlight = true → step s = .next t → t.txInFlight = false →
    t.txDone = true ∧ t.ring = [] ∧ t.shift = none)

/-- The waveform of a symbol (10_state.md section 4, 43_tx_driver.md SHIFT; the idle level is decision D16): after a SHIFT the
pin is at the first level for exactly the first duration, at the second for exactly the second, and then the serializer is
idle and the pin low. -/
def Obligations.SymbolIsDrivenForItsTicks : Prop :=
  ∀ (s : State) (sym : Symbol) (rest : List Symbol),
    s.shiftEnabled = true → s.ring = sym :: rest → 1 ≤ sym.d0 → 1 ≤ sym.d1 →
    (∀ k, k < sym.d0 + sym.d1 →
      ((s.move .shift).moves (List.replicate k .tick)).pin = (if k < sym.d0 then sym.l0 else sym.l1) ∧
      ((s.move .shift).moves (List.replicate k .tick)).shift.isSome = true) ∧
    ((s.move .shift).moves (List.replicate (sym.d0 + sym.d1) .tick)).shift = none ∧
    ((s.move .shift).moves (List.replicate (sym.d0 + sym.d1) .tick)).pin = .low

/-- 43_tx_driver.md SHIFT with time: within a frame the next symbol follows on the very next tick while the ring is not empty,
so no gap falls there. -/
def Obligations.NextSymbolFollowsOnTheNextTick : Prop :=
  ∀ (s : State) (sym : Symbol) (rest : List Symbol),
    s.halted = false → s.shift = none → s.ring = sym :: rest → s.ring.length < s.symbolsWritten → 2 ≤ sym.d0 →
    (s.move .tick).ring = rest ∧ (s.move .tick).wire = s.wire ++ [sym] ∧
    (s.move .tick).shift = some ⟨sym, .first, sym.d0 - 1⟩ ∧ (s.move .tick).pin = sym.l0 ∧
    (s.move .tick).txUnderrun = s.txUnderrun

/-- 43_tx_driver.md, underrun (decision D15, the timed model): the bit is set by a tick that passes in a gap, with the wire
low, and by nothing else. -/
def Obligations.UnderrunIsRecordedExactlyInAGap : Prop :=
  (∀ s : State, s.halted = false → s.txInFlight = true → s.txDone = false → s.ring = [] → s.shift = none →
    0 < s.symbolsWritten → (s.move .tick).txUnderrun = true ∧ (s.move .tick).pin = .low) ∧
  (∀ (s : State) (m : Move), s.txUnderrun = false → (s.move m).txUnderrun = true →
    m = .tick ∧ s.txInFlight = true ∧ s.txDone = false ∧ s.ring = [] ∧ s.shift = none ∧ 0 < s.symbolsWritten)

/-- The wire trace with time (10_state.md section 6, 43_tx_driver.md; the timing of the serializer is decision D27, the ticks
recorded log entry 18, the taking of a symbol by a tick log entry 23): every tick while something is on its way to the wire is
recorded once, at the level driven in it: that of the symbol under way, the first level of a symbol the tick itself takes from
the ring, or low where none is driven. No other step of an agent is recorded. -/
def Obligations.EveryTickIsTracedOnce : Prop :=
  (∀ s : State, s.halted = false → s.quiet = false →
    waveTicks (s.move .tick).wave = waveTicks s.wave + 1 ∧
    (∀ p, s.shift = some p →
      ((s.move .tick).wave.head?.map Segment.level) = some p.level ∧ (s.move .tick).wire = s.wire) ∧
    (s.shift = none → s.ring = [] →
      ((s.move .tick).wave.head?.map Segment.level) = some .low ∧ (s.move .tick).wire = s.wire) ∧
    (∀ sym rest, s.shift = none → s.ring = sym :: rest → s.mustShift = true →
      ((s.move .tick).wave.head?.map Segment.level) = some sym.l0 ∧ (s.move .tick).wire = s.wire ++ [sym]) ∧
    (∀ sym rest, s.shift = none → s.ring = sym :: rest → s.mustShift = false →
      ((s.move .tick).wave.head?.map Segment.level) = some .low ∧ (s.move .tick).wire = s.wire)) ∧
  (∀ (s : State) (m : Move), m ≠ .tick → (s.move m).wave = s.wave)

/-- The encoder reads the live buffer (20_memory.md section 6, decision D14): after a SET a PULL that reaches the LED's green
byte pushes the new value's symbols, also in the transmission that was in flight. -/
def Obligations.PullReadsTheLiveBuffer : Prop :=
  ∀ (s t : State) (index : BitVec 24) (r g b : Byte) (free : Nat),
    s.halted = false → s.initialized = true → s.pixels.wf → index.toNat < 256 →
    exec (.set index r g b) s = .next t →
    t.txInFlight = true → t.txDone = false → t.symbolsWritten / 8 = 3 * index.toNat →
    3 * index.toNat < t.txLength.val → 8 ≤ free → 8 ≤ t.channel.blockSymbols - t.ring.length →
    (t.pull free).ring = t.ring ++ Symbol.ofByte g

/-- What a FLUSH sends (43_tx_driver.md, marked derived): from the state an issue leaves, over any schedule of the agents with
no write of the HOST between, a transmission that has completed has put exactly its frame on the wire. -/
def Obligations.CompletedTransmissionSentItsFrame : Prop :=
  ∀ (s : State) (ms : List Move),
    s.txInFlight = true → s.txDone = false → s.symbolsWritten = 0 → s.ring = [] → s.shift = none →
    (s.moves ms).txInFlight = false →
    (s.moves ms).wire = s.wire ++ frameOfBytes s.pixels s.txLength.val

/-- Progress (43_tx_driver.md, marked derived): in every state of a run a transmission in flight can complete, whatever the
agents have done so far. -/
def Obligations.TransmissionCanAlwaysComplete : Prop :=
  ∀ s : State, s.Inv → s.halted = false → s.txInFlight = true → ∃ ms : List Move, (s.moves ms).txInFlight = false

/-! ## The command handler (44_command_handler.md) -/

/-- R211: LED without parameters is an error and changes nothing: no store, no flush, no wait. -/
def Obligations.LedWithoutParametersChangesNothing : Prop :=
  ∀ s : State, s.halted = false → s.initialized = true →
    exec (.led []) s =
      .next { s with events := s.events ++ [.noInput], response := some ⟨.error, none⟩, host := .idle }

/-- LED with valid parameters (44_command_handler.md; a list longer than 256 is decision D17), in every state with a canonical
buffer and whatever becomes of its FLUSH: parameter `k` is stored in LED `k`, green, red, blue; no byte beyond the LEDs named
changes; `used_count` is at least the number of LEDs named. -/
def Obligations.LedStoresEachParameter : Prop :=
  ∀ (s : State) (params : List Word),
    s.halted = false → s.initialized = true → s.pixels.wf → params ≠ [] → (∀ p ∈ params, p.toNat ≤ 255) →
    ∃ t, exec (.led params) s = .next t ∧
      (∀ k p, k < 256 → params[k]? = some p →
        memRead t.pixels (3 * k) 3 =
          [(quantize (p.setWidth 8)).green, (quantize (p.setWidth 8)).red, (quantize (p.setWidth 8)).blue]) ∧
      (∀ a, 3 * min params.length 256 ≤ a → t.pixels.read a = s.pixels.read a) ∧
      t.usedCount.val = max s.usedCount.val (min params.length 256)

/-- LED with valid parameters where nothing is on its way to the wire and the platform answers `ok` (44_command_handler.md):
as many LEDs as parameters are flushed, at most the LEDs in use; excess parameters are logged (decisions D17, D19); nothing else
changes. -/
def Obligations.LedFlushesAsManyLedsAsParameters : Prop :=
  ∀ (s : State) (params : List Word) (rest : List Answer),
    s.halted = false → s.initialized = true → s.pixels.wf → s.quiet = true → s.answers = .ok :: .ok :: rest →
    params ≠ [] → (∀ p ∈ params, p.toNat ≤ 255) →
    ∃ t, exec (.led params) s = .next t ∧ t.txLength.val = 3 * min params.length 256 ∧
      t = { s with
        pixels := storeParams s.pixels 0 params
        usedCount := usedAfter s.usedCount 0 params.length
        events := s.events ++ logsOf 0 params.length
        txLength := t.txLength
        symbolsWritten := 0
        txDone := false
        txInFlight := true
        response := some ⟨.ok, none⟩
        host := .idle
        calls := s.calls ++ [.waitAllDone, .transmit (3 * min params.length 256)]
        answers := rest }

/-- The range error of LED (44_command_handler.md; that no transmission is issued is marked derived there, lists past 256 are
decision D17, the log events decision D19): a parameter above 255 ends the command with ERROR; the parameters before it stay
applied, itself and the ones after it store nothing, and there is no lower bound; no call to the platform is made. -/
def Obligations.LedStopsAtARangeError : Prop :=
  ∀ (s : State) (good : List Word) (bad : Word) (later : List Word),
    s.halted = false → s.initialized = true → s.pixels.wf → (∀ p ∈ good, p.toNat ≤ 255) → 255 < bad.toNat →
    ∃ u, AgentsOnly s u ∧ (s.quiet = true → u = s) ∧
      exec (.led (good ++ bad :: later)) s =
        .next { u with
          pixels := storeParams s.pixels 0 good
          usedCount := usedAfter s.usedCount 0 good.length
          events := s.events ++ logsOf 0 good.length ++ [.outOfRange good.length bad]
          response := some ⟨.error, none⟩
          host := .idle }

/-- The result of LED (44_command_handler.md), for one that does not wait and meets no HardwareFault: the result is OK if and
only if there is a parameter and all are in range, and it carries no detail. -/
def Obligations.LedAnswersOkIffAllInRange : Prop :=
  ∀ (s : State) (params : List Word) (rest : List Answer),
    s.halted = false → s.initialized = true → s.pixels.wf → s.quiet = true → s.answers = .ok :: .ok :: rest →
    ∃ t, exec (.led params) s = .next t ∧
      (t.response = some ⟨.ok, none⟩ ∨ t.response = some ⟨.error, none⟩) ∧
      (t.response = some ⟨.ok, none⟩ ↔ 1 ≤ params.length ∧ ∀ p ∈ params, p.toNat ≤ 255)

/-- 60_exceptions.md (which calls can fail is decision D12) and 95_test_vectors.md P7: an LED whose `transmit` fails has stored
its colours; the block halts without a response. -/
def Obligations.LedKeepsItsColoursWhenTransmitFails : Prop :=
  ∀ (s : State) (params : List Word) (rest : List Answer),
    s.halted = false → s.initialized = true → s.pixels.wf → s.quiet = true → s.answers = .ok :: .fail :: rest →
    params ≠ [] → (∀ p ∈ params, p.toNat ≤ 255) →
    ∃ t, exec (.led params) s = .next t ∧ t.pixels = storeParams s.pixels 0 params ∧
      t.usedCount.val = max s.usedCount.val (min params.length 256) ∧ t.halted = true ∧ t.response = none ∧
      t.txInFlight = false ∧ t.events = s.events ++ logsOf 0 params.length ++ [.hardwareFault .transmit]

/-! ## The whole machine -/

/-- A step runs the decoded command: where the HOST has no operation under way and the offered words decode, the step is the
operation's meaning in the state the other agents' turn leaves, its words taken; where nothing is on its way to the wire that
turn changes nothing. The port as a list of words, a step as one turn and then one whole operation, and that no turn is drawn
where nothing is on its way to the wire, are the model's choices (log entries 3, 22 and 4). -/
def Obligations.StepRunsTheDecodedCommand : Prop :=
  ∀ (s : State) (i : Instr) (rest : List Word),
    s.halted = false → s.host = .idle → decode s.cmdWords = .ok (i, rest) →
    step s = exec i { s.agentsTurn with cmdWords := rest } ∧ (s.quiet = true → s.agentsTurn = s)

/-- 10_state.md section 7 (the left column is decision D11): the state after reset has the values the spec gives, and meets
the invariant. The invariant also speaks of `pin`, `symbols_written`, `tx_done` and the buffer, which the spec leaves
unspecified before INIT: their values at reset are the model's choices (log entries 1 and 2). -/
def Obligations.ResetMeetsTheInvariant : Prop :=
  State.reset.Inv ∧ State.reset.initialized = false ∧ State.reset.halted = false ∧ State.reset.txInFlight = false ∧
    State.reset.ring = [] ∧ State.reset.shift = none ∧ State.reset.channel.acquired = false ∧
    State.reset.channel.encoderRegistered = false ∧ State.reset.channel.enabled = false

/-- Every step keeps the invariant of a run (10_state.md sections 2 to 6, 42_encoder.md, 43_tx_driver.md; some clauses are
marked derived there): the canonical buffer, the ring within its capacity, nothing on its way to the wire without a transmission
in flight, whole bytes until RESET, the static configuration, the pin as the serializer drives it. -/
def Obligations.StepKeepsTheInvariant : Prop :=
  ∀ s t : State, s.Inv → step s = .next t → t.Inv

/-- 10_state.md section 2: `used_count` is monotonically non-decreasing except on explicit clear: no operation but CLEAR_ALL
and INIT, which contains one, lowers it. -/
def Obligations.UsedCountFallsOnlyOnClear : Prop :=
  ∀ (s t : State) (i : Instr), exec i s = .next t → i ≠ .clearAll → i ≠ .init → s.usedCount.val ≤ t.usedCount.val

/-- 10_state.md section 3 and 43_tx_driver.md: a transmission begins only inside an operation that contains a FLUSH, and never
while one is in flight: where one is in flight throughout the operation's looks at it, its registers stay. -/
def Obligations.OnlyFlushingOperationsTransmit : Prop :=
  (∀ (s t : State) (i : Instr), exec i s = .next t → s.txInFlight = false → t.txInFlight = true →
    i = .init ∨ i = .clearAll ∨ (∃ c, i = .flush c) ∨ ∃ ps, i = .led ps) ∧
  (∀ (s : State) (leds : Fin 257), s.txInFlight = true →
    (s.awaitDone leds).txInFlight = true ∧ (s.awaitDone leds).txLength = s.txLength ∧
    (s.awaitDone leds).symbolsWritten = s.symbolsWritten ∧ (s.awaitDone leds).txDone = s.txDone ∧
    (s.awaitDone leds).calls = s.calls)

/-- 10_state.md section 6 (decision D22): after INIT the configuration is static, and no step undoes INIT. -/
def Obligations.ConfigurationIsStaticAfterInit : Prop :=
  ∀ s t : State, s.initialized = true → step s = .next t → t.channel = s.channel ∧ t.initialized = true

/-! ## Operations that meet a transmission in flight, and their failing calls -/

/-- A waiting HOST whose call fails (60_exceptions.md section 1, decision D12): a `wait_all_done` that fails during the wait, at any
time, or a `transmit` that fails after it halts the block; the event names the call, no response is given. That a step looks at
the wait once, after the other agents' turn, is the model's choice (log entries 10 and 22). -/
def Obligations.WaitingFlushHaltsWhenACallFails : Prop :=
  ∀ (s : State) (leds : Fin 257) (rest : List Answer), s.halted = false → s.host = .waiting leds →
    (s.answers = .fail :: rest →
      step s =
        .next { s.agentsTurn with
          events := s.events ++ [.hardwareFault .waitAllDone]
          halted := true
          response := none
          host := .idle
          answers := rest }) ∧
    (s.agentsTurn.txInFlight = false → s.answers = .ok :: .fail :: rest →
      step s =
        .next { s.agentsTurn with
          events := s.events ++ [.hardwareFault .transmit]
          halted := true
          response := none
          host := .idle
          calls := s.calls ++ [.transmit (3 * leds.val)]
          answers := rest })

/-- CLEAR_ALL in any state after INIT, also while a transmission is in flight (40_pixel_buffer.md CLEAR_ALL, 43_tx_driver.md FLUSH;
failing calls are decision D12, the zero-length issue decision D10). `s.hostWrites clearWrites` is the state its zeroing leaves,
with what the other agents did among the writes (log entry 8). Where the transmission is still in flight then, the HOST waits
without a response and without a `transmit` call (one look at the wait is log entry 10); where it is not, the black frame is
issued; a call that fails halts the block, the buffer zero. -/
def Obligations.ClearAllMeetsATransmissionInFlight : Prop :=
  ∀ (s : State) (rest : List Answer), s.halted = false → s.initialized = true → s.pixels.wf →
    ((s.hostWrites clearWrites).txInFlight = true → s.answers = .ok :: rest →
      exec .clearAll s =
        .next { s.hostWrites clearWrites with
          pixels := []
          usedCount := Config.defaultLedCount
          host := .waiting Config.defaultLedCount
          response := none
          calls := s.calls ++ [.waitAllDone]
          answers := rest }) ∧
    ((s.hostWrites clearWrites).txInFlight = false → s.answers = .ok :: .ok :: rest →
      (Config.defaultLedCount ≠ 0 ∨ Config.zeroLengthTx = .resetOnly) →
      exec .clearAll s =
        .next { s.hostWrites clearWrites with
          pixels := []
          usedCount := Config.defaultLedCount
          txLength := bytesOfLeds Config.defaultLedCount
          symbolsWritten := 0
          txDone := false
          txInFlight := true
          response := some ⟨.ok, none⟩
          host := .idle
          calls := s.calls ++ [.waitAllDone, .transmit (3 * Config.defaultLedCount.val)]
          answers := rest }) ∧
    (s.answers = .fail :: rest →
      exec .clearAll s =
        .next { s.hostWrites clearWrites with
          pixels := []
          usedCount := Config.defaultLedCount
          events := s.events ++ [.hardwareFault .waitAllDone]
          halted := true
          response := none
          host := .idle
          calls := s.calls ++ [.waitAllDone]
          answers := rest }) ∧
    (∀ a, (s.hostWrites clearWrites).txInFlight = false → s.answers = .ok :: a :: rest →
      (a = .fail ∨ (Config.defaultLedCount = 0 ∧ Config.zeroLengthTx = .fault)) →
      exec .clearAll s =
        .next { s.hostWrites clearWrites with
          pixels := []
          usedCount := Config.defaultLedCount
          events := s.events ++ [.hardwareFault .transmit]
          halted := true
          response := none
          host := .idle
          calls := s.calls ++ [.waitAllDone, .transmit (3 * Config.defaultLedCount.val)]
          answers := rest })

/-- LED with valid parameters in any state after INIT, also while a transmission is in flight (44_command_handler.md,
43_tx_driver.md FLUSH; lists past 256 are decision D17, log events D19, failing calls D12). `(State.applyParams params 0 s).2` is the
state its stores leave, with what the other agents did among the writes (log entry 8). Where the transmission is still in flight
then, the HOST waits without a response and without a `transmit` call (one look at the wait is log entry 10); where it is not, as
many LEDs as parameters are issued; a call that fails halts the block, the colours stored. -/
def Obligations.LedMeetsATransmissionInFlight : Prop :=
  ∀ (s : State) (params : List Word) (rest : List Answer), s.halted = false → s.initialized = true → s.pixels.wf →
    params ≠ [] → (∀ p ∈ params, p.toNat ≤ 255) →
    ∃ leds : Fin 257, leds.val = min params.length 256 ∧
      ((State.applyParams params 0 s).2.txInFlight = true → s.answers = .ok :: rest →
        exec (.led params) s =
          .next { (State.applyParams params 0 s).2 with
            pixels := storeParams s.pixels 0 params
            usedCount := usedAfter s.usedCount 0 params.length
            events := s.events ++ logsOf 0 params.length
            host := .waiting leds
            response := none
            calls := s.calls ++ [.waitAllDone]
            answers := rest }) ∧
      ((State.applyParams params 0 s).2.txInFlight = false → s.answers = .ok :: .ok :: rest →
        exec (.led params) s =
          .next { (State.applyParams params 0 s).2 with
            pixels := storeParams s.pixels 0 params
            usedCount := usedAfter s.usedCount 0 params.length
            events := s.events ++ logsOf 0 params.length
            txLength := bytesOfLeds leds
            symbolsWritten := 0
            txDone := false
            txInFlight := true
            response := some ⟨.ok, none⟩
            host := .idle
            calls := s.calls ++ [.waitAllDone, .transmit (3 * min params.length 256)]
            answers := rest }) ∧
      (s.answers = .fail :: rest →
        exec (.led params) s =
          .next { (State.applyParams params 0 s).2 with
            pixels := storeParams s.pixels 0 params
            usedCount := usedAfter s.usedCount 0 params.length
            events := s.events ++ logsOf 0 params.length ++ [.hardwareFault .waitAllDone]
            halted := true
            response := none
            host := .idle
            calls := s.calls ++ [.waitAllDone]
            answers := rest }) ∧
      ((State.applyParams params 0 s).2.txInFlight = false → s.answers = .ok :: .fail :: rest →
        exec (.led params) s =
          .next { (State.applyParams params 0 s).2 with
            pixels := storeParams s.pixels 0 params
            usedCount := usedAfter s.usedCount 0 params.length
            events := s.events ++ logsOf 0 params.length ++ [.hardwareFault .transmit]
            halted := true
            response := none
            host := .idle
            calls := s.calls ++ [.waitAllDone, .transmit (3 * min params.length 256)]
            answers := rest })
end

