-- ==== Sys2Proof/Laws/Memory.lean ====
section
/-! SUPPORT. The laws of the pixel buffer: read after write, the canonical form is kept, and canonical memories that read
alike are equal. -/

namespace Sys2Proof.Machine

theorem Memory.wf_nil : Memory.wf [] := by simp [Memory.wf]

theorem Memory.wf_tail {c : Host.Cell} {m : Memory} (h : Memory.wf (c :: m)) : Memory.wf m :=
  ⟨(List.pairwise_cons.1 h.1).2, fun d hd => h.2 d (List.mem_cons_of_mem _ hd)⟩

/-- Below its first address a canonical memory lists nothing. -/
theorem Memory.read_eq_zero {m : Memory} {a : Nat} (h : ∀ c ∈ m, c.1 ≠ a) : m.read a = 0 := by
  induction m with
  | nil => rfl
  | cons c m ih =>
    obtain ⟨b, v⟩ := c
    have hb : b ≠ a := h _ (List.mem_cons_self ..)
    simp only [Memory.read, if_neg hb]
    exact ih fun c hc => h c (List.mem_cons_of_mem _ hc)

theorem Memory.head_lt {b : Nat} {u : Byte} {m : Memory} (h : Memory.wf ((b, u) :: m)) :
    ∀ c ∈ m, b < c.1 := (List.pairwise_cons.1 h.1).1

/-- Every address a write leaves listed was listed, or is the address written. -/
theorem Memory.mem_write {m : Memory} {a : Nat} {v : Byte} {c : Host.Cell} (h : c ∈ m.write a v) :
    c ∈ m ∨ (c = (a, v) ∧ v ≠ 0) := by
  induction m with
  | nil => by_cases hv : v = 0 <;> simp_all [Memory.write]
  | cons d m ih =>
    obtain ⟨b, u⟩ := d
    by_cases hv : v = 0 <;> simp only [Memory.write, hv, if_true, if_false] at h <;> split at h <;>
      (try split at h) <;> simp_all <;> tauto

/-- A write of a byte of the buffer keeps the canonical form. -/
theorem Memory.write_wf {m : Memory} (hm : m.wf) {a : Nat} (ha : a < pixelBytes) (v : Byte) : (m.write a v).wf := by
  induction m with
  | nil => by_cases hv : v = 0 <;> simp_all [Memory.write, Memory.wf]
  | cons d m ih =>
    obtain ⟨b, u⟩ := d
    have hlt := Memory.head_lt hm
    have htail := Memory.wf_tail hm
    have hbu := hm.2 (b, u) (List.mem_cons_self ..)
    refine ⟨?_, fun c hc => ?_⟩
    · simp only [Memory.write]
      split
      · split
        · exact hm.1
        · refine List.pairwise_cons.2 ⟨fun c hc => ?_, hm.1⟩
          rcases List.mem_cons.1 hc with rfl | hc
          · assumption
          · have := hlt c hc; dsimp only; omega
      · split
        · subst_vars
          split
          · exact htail.1
          · exact List.pairwise_cons.2 ⟨hlt, htail.1⟩
        · refine List.pairwise_cons.2 ⟨fun c hc => ?_, (ih htail).1⟩
          rcases Memory.mem_write hc with hc | ⟨rfl, -⟩
          · exact hlt c hc
          · dsimp only; omega
    · rcases Memory.mem_write hc with hc | ⟨rfl, hv⟩
      · exact hm.2 c hc
      · exact ⟨ha, hv⟩

theorem Memory.read_write_self {m : Memory} (hm : m.wf) (a : Nat) (v : Byte) : (m.write a v).read a = v := by
  induction m with
  | nil => by_cases hv : v = 0 <;> simp_all [Memory.write, Memory.read]
  | cons d m ih =>
    obtain ⟨b, u⟩ := d
    have hlt := Memory.head_lt hm
    simp only [Memory.write]
    split
    · split
      · rename_i hab hv
        rw [hv, Memory.read_eq_zero]
        intro c hc
        rcases List.mem_cons.1 hc with rfl | hc
        · dsimp only; omega
        · have := hlt c hc; omega
      · simp [Memory.read]
    · split
      · subst_vars
        split
        · rename_i hv
          rw [hv, Memory.read_eq_zero]
          intro c hc
          have := hlt c hc; omega
        · simp [Memory.read]
      · rename_i h1 h2
        rw [Memory.read, if_neg (fun h => h2 h.symm), ih (Memory.wf_tail hm)]

theorem Memory.read_write_of_ne (m : Memory) {a b : Nat} (v : Byte) (h : b ≠ a) :
    (m.write a v).read b = m.read b := by
  induction m with
  | nil => simp only [Memory.write]; split <;> simp [Memory.read, Ne.symm h]
  | cons d m ih =>
    obtain ⟨c, u⟩ := d
    simp only [Memory.write]
    split
    · split <;> simp [Memory.read, Ne.symm h]
    · split
      · subst_vars
        split <;> simp [Memory.read, Ne.symm h]
      · simp [Memory.read, ih]

/-- Read after write. -/
theorem Memory.read_write {m : Memory} (hm : m.wf) (a b : Nat) (v : Byte) :
    (m.write a v).read b = if b = a then v else m.read b := by
  split
  · subst_vars; exact Memory.read_write_self hm _ v
  · exact Memory.read_write_of_ne m v ‹_›

/-- A canonical memory reads 0 outside the buffer. -/
theorem Memory.read_of_ge {m : Memory} (hm : m.wf) {a : Nat} (ha : pixelBytes ≤ a) : m.read a = 0 :=
  Memory.read_eq_zero fun c hc => by have := (hm.2 c hc).1; omega

/-- Equal memories are equal data. -/
theorem Memory.ext {m n : Memory} (hm : m.wf) (hn : n.wf) (h : ∀ a, m.read a = n.read a) : m = n := by
  induction m generalizing n with
  | nil =>
    cases n with
    | nil => rfl
    | cons d n =>
      have := h d.1
      simp only [Memory.read, if_true] at this
      exact absurd this.symm (hn.2 d (List.mem_cons_self ..)).2
  | cons c m ih =>
    obtain ⟨a, u⟩ := c
    have hc := hm.2 (a, u) (List.mem_cons_self ..)
    cases n with
    | nil =>
      have := h a
      simp only [Memory.read, if_true] at this
      exact absurd this hc.2
    | cons d n =>
      obtain ⟨b, v⟩ := d
      have hd := hn.2 (b, v) (List.mem_cons_self ..)
      have hmlt := Memory.head_lt hm
      have hnlt := Memory.head_lt hn
      have hab : a = b := by
        rcases Nat.lt_trichotomy a b with hlt | heq | hgt
        · have := h a
          rw [Memory.read, if_pos rfl, Memory.read_eq_zero] at this
          · exact absurd this hc.2
          · intro e he
            rcases List.mem_cons.1 he with rfl | he
            · dsimp only; omega
            · have := hnlt e he; omega
        · exact heq
        · have := h b
          rw [Memory.read_eq_zero, Memory.read, if_pos rfl] at this
          · exact absurd this.symm hd.2
          · intro e he
            rcases List.mem_cons.1 he with rfl | he
            · dsimp only; omega
            · have := hmlt e he; omega
      subst hab
      have huv : u = v := by simpa [Memory.read] using h a
      subst huv
      rw [ih (Memory.wf_tail hm) (Memory.wf_tail hn)]
      intro x
      by_cases hx : a = x
      · subst hx
        rw [Memory.read_eq_zero fun c hc => (Nat.ne_of_lt (hmlt c hc)).symm,
          Memory.read_eq_zero fun c hc => (Nat.ne_of_lt (hnlt c hc)).symm]
      · simpa [Memory.read, hx] using h x

/-- One byte write of the HOST keeps the canonical form. -/
theorem State.storeByte_wf {s : State} (h : s.pixels.wf) (a : Nat) (v : Byte) : (s.storeByte a v).pixels.wf := by
  show Memory.wf (if a < pixelBytes then s.pixels.write a v else s.pixels)
  split
  · exact Memory.write_wf h ‹_› v
  · exact h

/-- What one byte write of the HOST leaves at every address. -/
theorem State.storeByte_read {s : State} (h : s.pixels.wf) {a : Nat} (ha : a < pixelBytes) (v : Byte) (b : Nat) :
    (s.storeByte a v).pixels.read b = if b = a then v else s.pixels.read b := by
  show Memory.read (if a < pixelBytes then s.pixels.write a v else s.pixels) b = _
  rw [if_pos ha, Memory.read_write h]

end Sys2Proof.Machine
end

