-- ==== Sys2Proof/Laws/State.lean ====
section
/-! SUPPORT. One lemma per field and named update of State, so that no proof unfolds a record update. -/

namespace Sys2Proof.Machine

variable (s : State)

/-! ### storeByte -/

@[simp] theorem State.storeByte_pixels (a : Nat) (v : Byte) : (s.storeByte a v).pixels = if a < pixelBytes then s.pixels.write a v else s.pixels := rfl
@[simp] theorem State.storeByte_usedCount (a : Nat) (v : Byte) : (s.storeByte a v).usedCount = s.usedCount := rfl
@[simp] theorem State.storeByte_txInFlight (a : Nat) (v : Byte) : (s.storeByte a v).txInFlight = s.txInFlight := rfl
@[simp] theorem State.storeByte_txLength (a : Nat) (v : Byte) : (s.storeByte a v).txLength = s.txLength := rfl
@[simp] theorem State.storeByte_symbolsWritten (a : Nat) (v : Byte) : (s.storeByte a v).symbolsWritten = s.symbolsWritten := rfl
@[simp] theorem State.storeByte_txDone (a : Nat) (v : Byte) : (s.storeByte a v).txDone = s.txDone := rfl
@[simp] theorem State.storeByte_ring (a : Nat) (v : Byte) : (s.storeByte a v).ring = s.ring := rfl
@[simp] theorem State.storeByte_pin (a : Nat) (v : Byte) : (s.storeByte a v).pin = s.pin := rfl
@[simp] theorem State.storeByte_shift (a : Nat) (v : Byte) : (s.storeByte a v).shift = s.shift := rfl
@[simp] theorem State.storeByte_initialized (a : Nat) (v : Byte) : (s.storeByte a v).initialized = s.initialized := rfl
@[simp] theorem State.storeByte_halted (a : Nat) (v : Byte) : (s.storeByte a v).halted = s.halted := rfl
@[simp] theorem State.storeByte_channel (a : Nat) (v : Byte) : (s.storeByte a v).channel = s.channel := rfl
@[simp] theorem State.storeByte_txUnderrun (a : Nat) (v : Byte) : (s.storeByte a v).txUnderrun = s.txUnderrun := rfl
@[simp] theorem State.storeByte_host (a : Nat) (v : Byte) : (s.storeByte a v).host = s.host := rfl
@[simp] theorem State.storeByte_response (a : Nat) (v : Byte) : (s.storeByte a v).response = s.response := rfl
@[simp] theorem State.storeByte_pullResponse (a : Nat) (v : Byte) : (s.storeByte a v).pullResponse = s.pullResponse := rfl
@[simp] theorem State.storeByte_events (a : Nat) (v : Byte) : (s.storeByte a v).events = s.events := rfl
@[simp] theorem State.storeByte_calls (a : Nat) (v : Byte) : (s.storeByte a v).calls = s.calls := rfl
@[simp] theorem State.storeByte_wire (a : Nat) (v : Byte) : (s.storeByte a v).wire = s.wire := rfl
@[simp] theorem State.storeByte_wave (a : Nat) (v : Byte) : (s.storeByte a v).wave = s.wave := rfl
@[simp] theorem State.storeByte_cmdWords (a : Nat) (v : Byte) : (s.storeByte a v).cmdWords = s.cmdWords := rfl
@[simp] theorem State.storeByte_turns (a : Nat) (v : Byte) : (s.storeByte a v).turns = s.turns := rfl
@[simp] theorem State.storeByte_answers (a : Nat) (v : Byte) : (s.storeByte a v).answers = s.answers := rfl
@[simp] theorem State.storeByte_drawn (a : Nat) (v : Byte) : (s.storeByte a v).drawn = s.drawn := rfl

/-! ### advanceUsed -/

@[simp] theorem State.advanceUsed_pixels (i : Fin 256) : (s.advanceUsed i).pixels = s.pixels := rfl
@[simp] theorem State.advanceUsed_usedCount (i : Fin 256) : (s.advanceUsed i).usedCount = advanceCount i s.usedCount := rfl
@[simp] theorem State.advanceUsed_txInFlight (i : Fin 256) : (s.advanceUsed i).txInFlight = s.txInFlight := rfl
@[simp] theorem State.advanceUsed_txLength (i : Fin 256) : (s.advanceUsed i).txLength = s.txLength := rfl
@[simp] theorem State.advanceUsed_symbolsWritten (i : Fin 256) : (s.advanceUsed i).symbolsWritten = s.symbolsWritten := rfl
@[simp] theorem State.advanceUsed_txDone (i : Fin 256) : (s.advanceUsed i).txDone = s.txDone := rfl
@[simp] theorem State.advanceUsed_ring (i : Fin 256) : (s.advanceUsed i).ring = s.ring := rfl
@[simp] theorem State.advanceUsed_pin (i : Fin 256) : (s.advanceUsed i).pin = s.pin := rfl
@[simp] theorem State.advanceUsed_shift (i : Fin 256) : (s.advanceUsed i).shift = s.shift := rfl
@[simp] theorem State.advanceUsed_initialized (i : Fin 256) : (s.advanceUsed i).initialized = s.initialized := rfl
@[simp] theorem State.advanceUsed_halted (i : Fin 256) : (s.advanceUsed i).halted = s.halted := rfl
@[simp] theorem State.advanceUsed_channel (i : Fin 256) : (s.advanceUsed i).channel = s.channel := rfl
@[simp] theorem State.advanceUsed_txUnderrun (i : Fin 256) : (s.advanceUsed i).txUnderrun = s.txUnderrun := rfl
@[simp] theorem State.advanceUsed_host (i : Fin 256) : (s.advanceUsed i).host = s.host := rfl
@[simp] theorem State.advanceUsed_response (i : Fin 256) : (s.advanceUsed i).response = s.response := rfl
@[simp] theorem State.advanceUsed_pullResponse (i : Fin 256) : (s.advanceUsed i).pullResponse = s.pullResponse := rfl
@[simp] theorem State.advanceUsed_events (i : Fin 256) : (s.advanceUsed i).events = s.events := rfl
@[simp] theorem State.advanceUsed_calls (i : Fin 256) : (s.advanceUsed i).calls = s.calls := rfl
@[simp] theorem State.advanceUsed_wire (i : Fin 256) : (s.advanceUsed i).wire = s.wire := rfl
@[simp] theorem State.advanceUsed_wave (i : Fin 256) : (s.advanceUsed i).wave = s.wave := rfl
@[simp] theorem State.advanceUsed_cmdWords (i : Fin 256) : (s.advanceUsed i).cmdWords = s.cmdWords := rfl
@[simp] theorem State.advanceUsed_turns (i : Fin 256) : (s.advanceUsed i).turns = s.turns := rfl
@[simp] theorem State.advanceUsed_answers (i : Fin 256) : (s.advanceUsed i).answers = s.answers := rfl
@[simp] theorem State.advanceUsed_drawn (i : Fin 256) : (s.advanceUsed i).drawn = s.drawn := rfl

/-! ### setUsed -/

@[simp] theorem State.setUsed_pixels (n : Fin 257) : (s.setUsed n).pixels = s.pixels := rfl
@[simp] theorem State.setUsed_usedCount (n : Fin 257) : (s.setUsed n).usedCount = n := rfl
@[simp] theorem State.setUsed_txInFlight (n : Fin 257) : (s.setUsed n).txInFlight = s.txInFlight := rfl
@[simp] theorem State.setUsed_txLength (n : Fin 257) : (s.setUsed n).txLength = s.txLength := rfl
@[simp] theorem State.setUsed_symbolsWritten (n : Fin 257) : (s.setUsed n).symbolsWritten = s.symbolsWritten := rfl
@[simp] theorem State.setUsed_txDone (n : Fin 257) : (s.setUsed n).txDone = s.txDone := rfl
@[simp] theorem State.setUsed_ring (n : Fin 257) : (s.setUsed n).ring = s.ring := rfl
@[simp] theorem State.setUsed_pin (n : Fin 257) : (s.setUsed n).pin = s.pin := rfl
@[simp] theorem State.setUsed_shift (n : Fin 257) : (s.setUsed n).shift = s.shift := rfl
@[simp] theorem State.setUsed_initialized (n : Fin 257) : (s.setUsed n).initialized = s.initialized := rfl
@[simp] theorem State.setUsed_halted (n : Fin 257) : (s.setUsed n).halted = s.halted := rfl
@[simp] theorem State.setUsed_channel (n : Fin 257) : (s.setUsed n).channel = s.channel := rfl
@[simp] theorem State.setUsed_txUnderrun (n : Fin 257) : (s.setUsed n).txUnderrun = s.txUnderrun := rfl
@[simp] theorem State.setUsed_host (n : Fin 257) : (s.setUsed n).host = s.host := rfl
@[simp] theorem State.setUsed_response (n : Fin 257) : (s.setUsed n).response = s.response := rfl
@[simp] theorem State.setUsed_pullResponse (n : Fin 257) : (s.setUsed n).pullResponse = s.pullResponse := rfl
@[simp] theorem State.setUsed_events (n : Fin 257) : (s.setUsed n).events = s.events := rfl
@[simp] theorem State.setUsed_calls (n : Fin 257) : (s.setUsed n).calls = s.calls := rfl
@[simp] theorem State.setUsed_wire (n : Fin 257) : (s.setUsed n).wire = s.wire := rfl
@[simp] theorem State.setUsed_wave (n : Fin 257) : (s.setUsed n).wave = s.wave := rfl
@[simp] theorem State.setUsed_cmdWords (n : Fin 257) : (s.setUsed n).cmdWords = s.cmdWords := rfl
@[simp] theorem State.setUsed_turns (n : Fin 257) : (s.setUsed n).turns = s.turns := rfl
@[simp] theorem State.setUsed_answers (n : Fin 257) : (s.setUsed n).answers = s.answers := rfl
@[simp] theorem State.setUsed_drawn (n : Fin 257) : (s.setUsed n).drawn = s.drawn := rfl

/-! ### emit -/

@[simp] theorem State.emit_pixels (e : Event) : (s.emit e).pixels = s.pixels := rfl
@[simp] theorem State.emit_usedCount (e : Event) : (s.emit e).usedCount = s.usedCount := rfl
@[simp] theorem State.emit_txInFlight (e : Event) : (s.emit e).txInFlight = s.txInFlight := rfl
@[simp] theorem State.emit_txLength (e : Event) : (s.emit e).txLength = s.txLength := rfl
@[simp] theorem State.emit_symbolsWritten (e : Event) : (s.emit e).symbolsWritten = s.symbolsWritten := rfl
@[simp] theorem State.emit_txDone (e : Event) : (s.emit e).txDone = s.txDone := rfl
@[simp] theorem State.emit_ring (e : Event) : (s.emit e).ring = s.ring := rfl
@[simp] theorem State.emit_pin (e : Event) : (s.emit e).pin = s.pin := rfl
@[simp] theorem State.emit_shift (e : Event) : (s.emit e).shift = s.shift := rfl
@[simp] theorem State.emit_initialized (e : Event) : (s.emit e).initialized = s.initialized := rfl
@[simp] theorem State.emit_halted (e : Event) : (s.emit e).halted = s.halted := rfl
@[simp] theorem State.emit_channel (e : Event) : (s.emit e).channel = s.channel := rfl
@[simp] theorem State.emit_txUnderrun (e : Event) : (s.emit e).txUnderrun = s.txUnderrun := rfl
@[simp] theorem State.emit_host (e : Event) : (s.emit e).host = s.host := rfl
@[simp] theorem State.emit_response (e : Event) : (s.emit e).response = s.response := rfl
@[simp] theorem State.emit_pullResponse (e : Event) : (s.emit e).pullResponse = s.pullResponse := rfl
@[simp] theorem State.emit_events (e : Event) : (s.emit e).events = s.events ++ [e] := rfl
@[simp] theorem State.emit_calls (e : Event) : (s.emit e).calls = s.calls := rfl
@[simp] theorem State.emit_wire (e : Event) : (s.emit e).wire = s.wire := rfl
@[simp] theorem State.emit_wave (e : Event) : (s.emit e).wave = s.wave := rfl
@[simp] theorem State.emit_cmdWords (e : Event) : (s.emit e).cmdWords = s.cmdWords := rfl
@[simp] theorem State.emit_turns (e : Event) : (s.emit e).turns = s.turns := rfl
@[simp] theorem State.emit_answers (e : Event) : (s.emit e).answers = s.answers := rfl
@[simp] theorem State.emit_drawn (e : Event) : (s.emit e).drawn = s.drawn := rfl

/-! ### respond -/

@[simp] theorem State.respond_pixels (r : Result) (d : Option Word) : (s.respond r d).pixels = s.pixels := rfl
@[simp] theorem State.respond_usedCount (r : Result) (d : Option Word) : (s.respond r d).usedCount = s.usedCount := rfl
@[simp] theorem State.respond_txInFlight (r : Result) (d : Option Word) : (s.respond r d).txInFlight = s.txInFlight := rfl
@[simp] theorem State.respond_txLength (r : Result) (d : Option Word) : (s.respond r d).txLength = s.txLength := rfl
@[simp] theorem State.respond_symbolsWritten (r : Result) (d : Option Word) : (s.respond r d).symbolsWritten = s.symbolsWritten := rfl
@[simp] theorem State.respond_txDone (r : Result) (d : Option Word) : (s.respond r d).txDone = s.txDone := rfl
@[simp] theorem State.respond_ring (r : Result) (d : Option Word) : (s.respond r d).ring = s.ring := rfl
@[simp] theorem State.respond_pin (r : Result) (d : Option Word) : (s.respond r d).pin = s.pin := rfl
@[simp] theorem State.respond_shift (r : Result) (d : Option Word) : (s.respond r d).shift = s.shift := rfl
@[simp] theorem State.respond_initialized (r : Result) (d : Option Word) : (s.respond r d).initialized = s.initialized := rfl
@[simp] theorem State.respond_halted (r : Result) (d : Option Word) : (s.respond r d).halted = s.halted := rfl
@[simp] theorem State.respond_channel (r : Result) (d : Option Word) : (s.respond r d).channel = s.channel := rfl
@[simp] theorem State.respond_txUnderrun (r : Result) (d : Option Word) : (s.respond r d).txUnderrun = s.txUnderrun := rfl
@[simp] theorem State.respond_host (r : Result) (d : Option Word) : (s.respond r d).host = .idle := rfl
@[simp] theorem State.respond_response (r : Result) (d : Option Word) : (s.respond r d).response = some ⟨r, d⟩ := rfl
@[simp] theorem State.respond_pullResponse (r : Result) (d : Option Word) : (s.respond r d).pullResponse = s.pullResponse := rfl
@[simp] theorem State.respond_events (r : Result) (d : Option Word) : (s.respond r d).events = s.events := rfl
@[simp] theorem State.respond_calls (r : Result) (d : Option Word) : (s.respond r d).calls = s.calls := rfl
@[simp] theorem State.respond_wire (r : Result) (d : Option Word) : (s.respond r d).wire = s.wire := rfl
@[simp] theorem State.respond_wave (r : Result) (d : Option Word) : (s.respond r d).wave = s.wave := rfl
@[simp] theorem State.respond_cmdWords (r : Result) (d : Option Word) : (s.respond r d).cmdWords = s.cmdWords := rfl
@[simp] theorem State.respond_turns (r : Result) (d : Option Word) : (s.respond r d).turns = s.turns := rfl
@[simp] theorem State.respond_answers (r : Result) (d : Option Word) : (s.respond r d).answers = s.answers := rfl
@[simp] theorem State.respond_drawn (r : Result) (d : Option Word) : (s.respond r d).drawn = s.drawn := rfl

/-! ### halt -/

@[simp] theorem State.halt_pixels : s.halt.pixels = s.pixels := rfl
@[simp] theorem State.halt_usedCount : s.halt.usedCount = s.usedCount := rfl
@[simp] theorem State.halt_txInFlight : s.halt.txInFlight = s.txInFlight := rfl
@[simp] theorem State.halt_txLength : s.halt.txLength = s.txLength := rfl
@[simp] theorem State.halt_symbolsWritten : s.halt.symbolsWritten = s.symbolsWritten := rfl
@[simp] theorem State.halt_txDone : s.halt.txDone = s.txDone := rfl
@[simp] theorem State.halt_ring : s.halt.ring = s.ring := rfl
@[simp] theorem State.halt_pin : s.halt.pin = s.pin := rfl
@[simp] theorem State.halt_shift : s.halt.shift = s.shift := rfl
@[simp] theorem State.halt_initialized : s.halt.initialized = s.initialized := rfl
@[simp] theorem State.halt_halted : s.halt.halted = true := rfl
@[simp] theorem State.halt_channel : s.halt.channel = s.channel := rfl
@[simp] theorem State.halt_txUnderrun : s.halt.txUnderrun = s.txUnderrun := rfl
@[simp] theorem State.halt_host : s.halt.host = .idle := rfl
@[simp] theorem State.halt_response : s.halt.response = none := rfl
@[simp] theorem State.halt_pullResponse : s.halt.pullResponse = s.pullResponse := rfl
@[simp] theorem State.halt_events : s.halt.events = s.events := rfl
@[simp] theorem State.halt_calls : s.halt.calls = s.calls := rfl
@[simp] theorem State.halt_wire : s.halt.wire = s.wire := rfl
@[simp] theorem State.halt_wave : s.halt.wave = s.wave := rfl
@[simp] theorem State.halt_cmdWords : s.halt.cmdWords = s.cmdWords := rfl
@[simp] theorem State.halt_turns : s.halt.turns = s.turns := rfl
@[simp] theorem State.halt_answers : s.halt.answers = s.answers := rfl
@[simp] theorem State.halt_drawn : s.halt.drawn = s.drawn := rfl

/-! ### recordCall -/

@[simp] theorem State.recordCall_pixels (c : Call) : (s.recordCall c).pixels = s.pixels := rfl
@[simp] theorem State.recordCall_usedCount (c : Call) : (s.recordCall c).usedCount = s.usedCount := rfl
@[simp] theorem State.recordCall_txInFlight (c : Call) : (s.recordCall c).txInFlight = s.txInFlight := rfl
@[simp] theorem State.recordCall_txLength (c : Call) : (s.recordCall c).txLength = s.txLength := rfl
@[simp] theorem State.recordCall_symbolsWritten (c : Call) : (s.recordCall c).symbolsWritten = s.symbolsWritten := rfl
@[simp] theorem State.recordCall_txDone (c : Call) : (s.recordCall c).txDone = s.txDone := rfl
@[simp] theorem State.recordCall_ring (c : Call) : (s.recordCall c).ring = s.ring := rfl
@[simp] theorem State.recordCall_pin (c : Call) : (s.recordCall c).pin = s.pin := rfl
@[simp] theorem State.recordCall_shift (c : Call) : (s.recordCall c).shift = s.shift := rfl
@[simp] theorem State.recordCall_initialized (c : Call) : (s.recordCall c).initialized = s.initialized := rfl
@[simp] theorem State.recordCall_halted (c : Call) : (s.recordCall c).halted = s.halted := rfl
@[simp] theorem State.recordCall_channel (c : Call) : (s.recordCall c).channel = s.channel := rfl
@[simp] theorem State.recordCall_txUnderrun (c : Call) : (s.recordCall c).txUnderrun = s.txUnderrun := rfl
@[simp] theorem State.recordCall_host (c : Call) : (s.recordCall c).host = s.host := rfl
@[simp] theorem State.recordCall_response (c : Call) : (s.recordCall c).response = s.response := rfl
@[simp] theorem State.recordCall_pullResponse (c : Call) : (s.recordCall c).pullResponse = s.pullResponse := rfl
@[simp] theorem State.recordCall_events (c : Call) : (s.recordCall c).events = s.events := rfl
@[simp] theorem State.recordCall_calls (c : Call) : (s.recordCall c).calls = s.calls ++ [c] := rfl
@[simp] theorem State.recordCall_wire (c : Call) : (s.recordCall c).wire = s.wire := rfl
@[simp] theorem State.recordCall_wave (c : Call) : (s.recordCall c).wave = s.wave := rfl
@[simp] theorem State.recordCall_cmdWords (c : Call) : (s.recordCall c).cmdWords = s.cmdWords := rfl
@[simp] theorem State.recordCall_turns (c : Call) : (s.recordCall c).turns = s.turns := rfl
@[simp] theorem State.recordCall_answers (c : Call) : (s.recordCall c).answers = s.answers := rfl
@[simp] theorem State.recordCall_drawn (c : Call) : (s.recordCall c).drawn = s.drawn := rfl

/-! ### ringPush -/

@[simp] theorem State.ringPush_pixels (l : List Symbol) : (s.ringPush l).pixels = s.pixels := rfl
@[simp] theorem State.ringPush_usedCount (l : List Symbol) : (s.ringPush l).usedCount = s.usedCount := rfl
@[simp] theorem State.ringPush_txInFlight (l : List Symbol) : (s.ringPush l).txInFlight = s.txInFlight := rfl
@[simp] theorem State.ringPush_txLength (l : List Symbol) : (s.ringPush l).txLength = s.txLength := rfl
@[simp] theorem State.ringPush_symbolsWritten (l : List Symbol) : (s.ringPush l).symbolsWritten = s.symbolsWritten := rfl
@[simp] theorem State.ringPush_txDone (l : List Symbol) : (s.ringPush l).txDone = s.txDone := rfl
@[simp] theorem State.ringPush_ring (l : List Symbol) : (s.ringPush l).ring = s.ring ++ l := rfl
@[simp] theorem State.ringPush_pin (l : List Symbol) : (s.ringPush l).pin = s.pin := rfl
@[simp] theorem State.ringPush_shift (l : List Symbol) : (s.ringPush l).shift = s.shift := rfl
@[simp] theorem State.ringPush_initialized (l : List Symbol) : (s.ringPush l).initialized = s.initialized := rfl
@[simp] theorem State.ringPush_halted (l : List Symbol) : (s.ringPush l).halted = s.halted := rfl
@[simp] theorem State.ringPush_channel (l : List Symbol) : (s.ringPush l).channel = s.channel := rfl
@[simp] theorem State.ringPush_txUnderrun (l : List Symbol) : (s.ringPush l).txUnderrun = s.txUnderrun := rfl
@[simp] theorem State.ringPush_host (l : List Symbol) : (s.ringPush l).host = s.host := rfl
@[simp] theorem State.ringPush_response (l : List Symbol) : (s.ringPush l).response = s.response := rfl
@[simp] theorem State.ringPush_pullResponse (l : List Symbol) : (s.ringPush l).pullResponse = s.pullResponse := rfl
@[simp] theorem State.ringPush_events (l : List Symbol) : (s.ringPush l).events = s.events := rfl
@[simp] theorem State.ringPush_calls (l : List Symbol) : (s.ringPush l).calls = s.calls := rfl
@[simp] theorem State.ringPush_wire (l : List Symbol) : (s.ringPush l).wire = s.wire := rfl
@[simp] theorem State.ringPush_wave (l : List Symbol) : (s.ringPush l).wave = s.wave := rfl
@[simp] theorem State.ringPush_cmdWords (l : List Symbol) : (s.ringPush l).cmdWords = s.cmdWords := rfl
@[simp] theorem State.ringPush_turns (l : List Symbol) : (s.ringPush l).turns = s.turns := rfl
@[simp] theorem State.ringPush_answers (l : List Symbol) : (s.ringPush l).answers = s.answers := rfl
@[simp] theorem State.ringPush_drawn (l : List Symbol) : (s.ringPush l).drawn = s.drawn := rfl

/-! ### issue -/

@[simp] theorem State.issue_pixels (n : Fin 257) : (s.issue n).pixels = s.pixels := rfl
@[simp] theorem State.issue_usedCount (n : Fin 257) : (s.issue n).usedCount = s.usedCount := rfl
@[simp] theorem State.issue_txInFlight (n : Fin 257) : (s.issue n).txInFlight = true := rfl
@[simp] theorem State.issue_txLength (n : Fin 257) : (s.issue n).txLength = bytesOfLeds n := rfl
@[simp] theorem State.issue_symbolsWritten (n : Fin 257) : (s.issue n).symbolsWritten = 0 := rfl
@[simp] theorem State.issue_txDone (n : Fin 257) : (s.issue n).txDone = false := rfl
@[simp] theorem State.issue_ring (n : Fin 257) : (s.issue n).ring = s.ring := rfl
@[simp] theorem State.issue_pin (n : Fin 257) : (s.issue n).pin = s.pin := rfl
@[simp] theorem State.issue_shift (n : Fin 257) : (s.issue n).shift = s.shift := rfl
@[simp] theorem State.issue_initialized (n : Fin 257) : (s.issue n).initialized = s.initialized := rfl
@[simp] theorem State.issue_halted (n : Fin 257) : (s.issue n).halted = s.halted := rfl
@[simp] theorem State.issue_channel (n : Fin 257) : (s.issue n).channel = s.channel := rfl
@[simp] theorem State.issue_txUnderrun (n : Fin 257) : (s.issue n).txUnderrun = s.txUnderrun := rfl
@[simp] theorem State.issue_host (n : Fin 257) : (s.issue n).host = s.host := rfl
@[simp] theorem State.issue_response (n : Fin 257) : (s.issue n).response = s.response := rfl
@[simp] theorem State.issue_pullResponse (n : Fin 257) : (s.issue n).pullResponse = s.pullResponse := rfl
@[simp] theorem State.issue_events (n : Fin 257) : (s.issue n).events = s.events := rfl
@[simp] theorem State.issue_calls (n : Fin 257) : (s.issue n).calls = s.calls := rfl
@[simp] theorem State.issue_wire (n : Fin 257) : (s.issue n).wire = s.wire := rfl
@[simp] theorem State.issue_wave (n : Fin 257) : (s.issue n).wave = s.wave := rfl
@[simp] theorem State.issue_cmdWords (n : Fin 257) : (s.issue n).cmdWords = s.cmdWords := rfl
@[simp] theorem State.issue_turns (n : Fin 257) : (s.issue n).turns = s.turns := rfl
@[simp] theorem State.issue_answers (n : Fin 257) : (s.issue n).answers = s.answers := rfl
@[simp] theorem State.issue_drawn (n : Fin 257) : (s.issue n).drawn = s.drawn := rfl

/-! ### wait -/

@[simp] theorem State.wait_pixels (n : Fin 257) : (s.wait n).pixels = s.pixels := rfl
@[simp] theorem State.wait_usedCount (n : Fin 257) : (s.wait n).usedCount = s.usedCount := rfl
@[simp] theorem State.wait_txInFlight (n : Fin 257) : (s.wait n).txInFlight = s.txInFlight := rfl
@[simp] theorem State.wait_txLength (n : Fin 257) : (s.wait n).txLength = s.txLength := rfl
@[simp] theorem State.wait_symbolsWritten (n : Fin 257) : (s.wait n).symbolsWritten = s.symbolsWritten := rfl
@[simp] theorem State.wait_txDone (n : Fin 257) : (s.wait n).txDone = s.txDone := rfl
@[simp] theorem State.wait_ring (n : Fin 257) : (s.wait n).ring = s.ring := rfl
@[simp] theorem State.wait_pin (n : Fin 257) : (s.wait n).pin = s.pin := rfl
@[simp] theorem State.wait_shift (n : Fin 257) : (s.wait n).shift = s.shift := rfl
@[simp] theorem State.wait_initialized (n : Fin 257) : (s.wait n).initialized = s.initialized := rfl
@[simp] theorem State.wait_halted (n : Fin 257) : (s.wait n).halted = s.halted := rfl
@[simp] theorem State.wait_channel (n : Fin 257) : (s.wait n).channel = s.channel := rfl
@[simp] theorem State.wait_txUnderrun (n : Fin 257) : (s.wait n).txUnderrun = s.txUnderrun := rfl
@[simp] theorem State.wait_host (n : Fin 257) : (s.wait n).host = .waiting n := rfl
@[simp] theorem State.wait_response (n : Fin 257) : (s.wait n).response = none := rfl
@[simp] theorem State.wait_pullResponse (n : Fin 257) : (s.wait n).pullResponse = s.pullResponse := rfl
@[simp] theorem State.wait_events (n : Fin 257) : (s.wait n).events = s.events := rfl
@[simp] theorem State.wait_calls (n : Fin 257) : (s.wait n).calls = s.calls := rfl
@[simp] theorem State.wait_wire (n : Fin 257) : (s.wait n).wire = s.wire := rfl
@[simp] theorem State.wait_wave (n : Fin 257) : (s.wait n).wave = s.wave := rfl
@[simp] theorem State.wait_cmdWords (n : Fin 257) : (s.wait n).cmdWords = s.cmdWords := rfl
@[simp] theorem State.wait_turns (n : Fin 257) : (s.wait n).turns = s.turns := rfl
@[simp] theorem State.wait_answers (n : Fin 257) : (s.wait n).answers = s.answers := rfl
@[simp] theorem State.wait_drawn (n : Fin 257) : (s.wait n).drawn = s.drawn := rfl

/-! ### answerPull -/

@[simp] theorem State.answerPull_pixels (w f : Nat) : (s.answerPull w f).pixels = s.pixels := rfl
@[simp] theorem State.answerPull_usedCount (w f : Nat) : (s.answerPull w f).usedCount = s.usedCount := rfl
@[simp] theorem State.answerPull_txInFlight (w f : Nat) : (s.answerPull w f).txInFlight = s.txInFlight := rfl
@[simp] theorem State.answerPull_txLength (w f : Nat) : (s.answerPull w f).txLength = s.txLength := rfl
@[simp] theorem State.answerPull_symbolsWritten (w f : Nat) : (s.answerPull w f).symbolsWritten = s.symbolsWritten := rfl
@[simp] theorem State.answerPull_txDone (w f : Nat) : (s.answerPull w f).txDone = s.txDone := rfl
@[simp] theorem State.answerPull_ring (w f : Nat) : (s.answerPull w f).ring = s.ring := rfl
@[simp] theorem State.answerPull_pin (w f : Nat) : (s.answerPull w f).pin = s.pin := rfl
@[simp] theorem State.answerPull_shift (w f : Nat) : (s.answerPull w f).shift = s.shift := rfl
@[simp] theorem State.answerPull_initialized (w f : Nat) : (s.answerPull w f).initialized = s.initialized := rfl
@[simp] theorem State.answerPull_halted (w f : Nat) : (s.answerPull w f).halted = s.halted := rfl
@[simp] theorem State.answerPull_channel (w f : Nat) : (s.answerPull w f).channel = s.channel := rfl
@[simp] theorem State.answerPull_txUnderrun (w f : Nat) : (s.answerPull w f).txUnderrun = s.txUnderrun := rfl
@[simp] theorem State.answerPull_host (w f : Nat) : (s.answerPull w f).host = s.host := rfl
@[simp] theorem State.answerPull_response (w f : Nat) : (s.answerPull w f).response = s.response := rfl
@[simp] theorem State.answerPull_pullResponse (w f : Nat) : (s.answerPull w f).pullResponse = some (encodePull s.pixels s.txLength.val w f) := rfl
@[simp] theorem State.answerPull_events (w f : Nat) : (s.answerPull w f).events = s.events := rfl
@[simp] theorem State.answerPull_calls (w f : Nat) : (s.answerPull w f).calls = s.calls := rfl
@[simp] theorem State.answerPull_wire (w f : Nat) : (s.answerPull w f).wire = s.wire := rfl
@[simp] theorem State.answerPull_wave (w f : Nat) : (s.answerPull w f).wave = s.wave := rfl
@[simp] theorem State.answerPull_cmdWords (w f : Nat) : (s.answerPull w f).cmdWords = s.cmdWords := rfl
@[simp] theorem State.answerPull_turns (w f : Nat) : (s.answerPull w f).turns = s.turns := rfl
@[simp] theorem State.answerPull_answers (w f : Nat) : (s.answerPull w f).answers = s.answers := rfl
@[simp] theorem State.answerPull_drawn (w f : Nat) : (s.answerPull w f).drawn = s.drawn := rfl

/-! ### absorbPull -/

@[simp] theorem State.absorbPull_pixels (r : PullResponse) : (s.absorbPull r).pixels = s.pixels := rfl
@[simp] theorem State.absorbPull_usedCount (r : PullResponse) : (s.absorbPull r).usedCount = s.usedCount := rfl
@[simp] theorem State.absorbPull_txInFlight (r : PullResponse) : (s.absorbPull r).txInFlight = s.txInFlight := rfl
@[simp] theorem State.absorbPull_txLength (r : PullResponse) : (s.absorbPull r).txLength = s.txLength := rfl
@[simp] theorem State.absorbPull_symbolsWritten (r : PullResponse) : (s.absorbPull r).symbolsWritten = s.symbolsWritten + r.count := rfl
@[simp] theorem State.absorbPull_txDone (r : PullResponse) : (s.absorbPull r).txDone = (s.txDone || r.done) := rfl
@[simp] theorem State.absorbPull_ring (r : PullResponse) : (s.absorbPull r).ring = s.ring ++ r.symbols := rfl
@[simp] theorem State.absorbPull_pin (r : PullResponse) : (s.absorbPull r).pin = s.pin := rfl
@[simp] theorem State.absorbPull_shift (r : PullResponse) : (s.absorbPull r).shift = s.shift := rfl
@[simp] theorem State.absorbPull_initialized (r : PullResponse) : (s.absorbPull r).initialized = s.initialized := rfl
@[simp] theorem State.absorbPull_halted (r : PullResponse) : (s.absorbPull r).halted = s.halted := rfl
@[simp] theorem State.absorbPull_channel (r : PullResponse) : (s.absorbPull r).channel = s.channel := rfl
@[simp] theorem State.absorbPull_txUnderrun (r : PullResponse) : (s.absorbPull r).txUnderrun = s.txUnderrun := rfl
@[simp] theorem State.absorbPull_host (r : PullResponse) : (s.absorbPull r).host = s.host := rfl
@[simp] theorem State.absorbPull_response (r : PullResponse) : (s.absorbPull r).response = s.response := rfl
@[simp] theorem State.absorbPull_pullResponse (r : PullResponse) : (s.absorbPull r).pullResponse = s.pullResponse := rfl
@[simp] theorem State.absorbPull_events (r : PullResponse) : (s.absorbPull r).events = s.events := rfl
@[simp] theorem State.absorbPull_calls (r : PullResponse) : (s.absorbPull r).calls = s.calls := rfl
@[simp] theorem State.absorbPull_wire (r : PullResponse) : (s.absorbPull r).wire = s.wire := rfl
@[simp] theorem State.absorbPull_wave (r : PullResponse) : (s.absorbPull r).wave = s.wave := rfl
@[simp] theorem State.absorbPull_cmdWords (r : PullResponse) : (s.absorbPull r).cmdWords = s.cmdWords := rfl
@[simp] theorem State.absorbPull_turns (r : PullResponse) : (s.absorbPull r).turns = s.turns := rfl
@[simp] theorem State.absorbPull_answers (r : PullResponse) : (s.absorbPull r).answers = s.answers := rfl
@[simp] theorem State.absorbPull_drawn (r : PullResponse) : (s.absorbPull r).drawn = s.drawn := rfl

/-! ### driveTick -/

@[simp] theorem State.driveTick_pixels (p : Shift) : (s.driveTick p).pixels = s.pixels := rfl
@[simp] theorem State.driveTick_usedCount (p : Shift) : (s.driveTick p).usedCount = s.usedCount := rfl
@[simp] theorem State.driveTick_txInFlight (p : Shift) : (s.driveTick p).txInFlight = s.txInFlight := rfl
@[simp] theorem State.driveTick_txLength (p : Shift) : (s.driveTick p).txLength = s.txLength := rfl
@[simp] theorem State.driveTick_symbolsWritten (p : Shift) : (s.driveTick p).symbolsWritten = s.symbolsWritten := rfl
@[simp] theorem State.driveTick_txDone (p : Shift) : (s.driveTick p).txDone = s.txDone := rfl
@[simp] theorem State.driveTick_ring (p : Shift) : (s.driveTick p).ring = s.ring := rfl
@[simp] theorem State.driveTick_pin (p : Shift) : (s.driveTick p).pin = pinLevel p.afterTick := rfl
@[simp] theorem State.driveTick_shift (p : Shift) : (s.driveTick p).shift = p.afterTick := rfl
@[simp] theorem State.driveTick_initialized (p : Shift) : (s.driveTick p).initialized = s.initialized := rfl
@[simp] theorem State.driveTick_halted (p : Shift) : (s.driveTick p).halted = s.halted := rfl
@[simp] theorem State.driveTick_channel (p : Shift) : (s.driveTick p).channel = s.channel := rfl
@[simp] theorem State.driveTick_txUnderrun (p : Shift) : (s.driveTick p).txUnderrun = s.txUnderrun := rfl
@[simp] theorem State.driveTick_host (p : Shift) : (s.driveTick p).host = s.host := rfl
@[simp] theorem State.driveTick_response (p : Shift) : (s.driveTick p).response = s.response := rfl
@[simp] theorem State.driveTick_pullResponse (p : Shift) : (s.driveTick p).pullResponse = s.pullResponse := rfl
@[simp] theorem State.driveTick_events (p : Shift) : (s.driveTick p).events = s.events := rfl
@[simp] theorem State.driveTick_calls (p : Shift) : (s.driveTick p).calls = s.calls := rfl
@[simp] theorem State.driveTick_wire (p : Shift) : (s.driveTick p).wire = s.wire := rfl
@[simp] theorem State.driveTick_wave (p : Shift) : (s.driveTick p).wave = extendWave s.wave p.level := rfl
@[simp] theorem State.driveTick_cmdWords (p : Shift) : (s.driveTick p).cmdWords = s.cmdWords := rfl
@[simp] theorem State.driveTick_turns (p : Shift) : (s.driveTick p).turns = s.turns := rfl
@[simp] theorem State.driveTick_answers (p : Shift) : (s.driveTick p).answers = s.answers := rfl
@[simp] theorem State.driveTick_drawn (p : Shift) : (s.driveTick p).drawn = s.drawn := rfl

/-! ### idleTick -/

@[simp] theorem State.idleTick_pixels : s.idleTick.pixels = s.pixels := rfl
@[simp] theorem State.idleTick_usedCount : s.idleTick.usedCount = s.usedCount := rfl
@[simp] theorem State.idleTick_txInFlight : s.idleTick.txInFlight = s.txInFlight := rfl
@[simp] theorem State.idleTick_txLength : s.idleTick.txLength = s.txLength := rfl
@[simp] theorem State.idleTick_symbolsWritten : s.idleTick.symbolsWritten = s.symbolsWritten := rfl
@[simp] theorem State.idleTick_txDone : s.idleTick.txDone = s.txDone := rfl
@[simp] theorem State.idleTick_ring : s.idleTick.ring = s.ring := rfl
@[simp] theorem State.idleTick_pin : s.idleTick.pin = .low := rfl
@[simp] theorem State.idleTick_shift : s.idleTick.shift = s.shift := rfl
@[simp] theorem State.idleTick_initialized : s.idleTick.initialized = s.initialized := rfl
@[simp] theorem State.idleTick_halted : s.idleTick.halted = s.halted := rfl
@[simp] theorem State.idleTick_channel : s.idleTick.channel = s.channel := rfl
@[simp] theorem State.idleTick_txUnderrun : s.idleTick.txUnderrun = (s.txUnderrun || s.inGap) := rfl
@[simp] theorem State.idleTick_host : s.idleTick.host = s.host := rfl
@[simp] theorem State.idleTick_response : s.idleTick.response = s.response := rfl
@[simp] theorem State.idleTick_pullResponse : s.idleTick.pullResponse = s.pullResponse := rfl
@[simp] theorem State.idleTick_events : s.idleTick.events = s.events := rfl
@[simp] theorem State.idleTick_calls : s.idleTick.calls = s.calls := rfl
@[simp] theorem State.idleTick_wire : s.idleTick.wire = s.wire := rfl
@[simp] theorem State.idleTick_wave : s.idleTick.wave = extendWave s.wave .low := rfl
@[simp] theorem State.idleTick_cmdWords : s.idleTick.cmdWords = s.cmdWords := rfl
@[simp] theorem State.idleTick_turns : s.idleTick.turns = s.turns := rfl
@[simp] theorem State.idleTick_answers : s.idleTick.answers = s.answers := rfl
@[simp] theorem State.idleTick_drawn : s.idleTick.drawn = s.drawn := rfl

end Sys2Proof.Machine
end

