-- ==== Sys2Proof/Laws/Agents.lean ====
section
/-! SUPPORT. What the steps of the hardware agents can do, and what the HOST's separate writes amount to. -/

namespace Sys2Proof.Machine

/-! ## The agents' frame -/

theorem AgentsOnly.refl (s : State) : AgentsOnly s s := by constructor <;> rfl

theorem AgentsOnly.trans {s t u : State} (h : AgentsOnly s t) (k : AgentsOnly t u) : AgentsOnly s u where
  pixels := k.pixels.trans h.pixels
  usedCount := k.usedCount.trans h.usedCount
  txLength := k.txLength.trans h.txLength
  initialized := k.initialized.trans h.initialized
  halted := k.halted.trans h.halted
  channel := k.channel.trans h.channel
  host := k.host.trans h.host
  response := k.response.trans h.response
  events := k.events.trans h.events
  calls := k.calls.trans h.calls
  cmdWords := k.cmdWords.trans h.cmdWords
  answers := k.answers.trans h.answers

/-- Everything a SHIFT can do. -/
theorem State.shiftNext_cases (s : State) :
    (s.shiftEnabled = false ∧ s.shiftNext = s) ∨
    (∃ sym rest, s.shiftEnabled = true ∧ s.ring = sym :: rest ∧
      s.shiftNext = { s with ring := rest, shift := some (Shift.start sym), pin := sym.l0, wire := s.wire ++ [sym] }) := by
  by_cases h : s.shiftEnabled = true
  · right
    cases hr : s.ring with
    | nil => simp [State.shiftEnabled, hr] at h
    | cons sym rest =>
      exact ⟨sym, rest, h, rfl, by simp [State.shiftNext, h, State.ringPop, hr, Shift.start, Shift.level]⟩
  · exact .inl ⟨by simpa using h, by simp [State.shiftNext, h]⟩

theorem State.shiftNext_agentsOnly (s : State) : AgentsOnly s s.shiftNext := by
  rcases s.shiftNext_cases with ⟨-, h⟩ | ⟨_, _, -, -, h⟩ <;> rw [h] <;> constructor <;> rfl

theorem State.passTick_agentsOnly (s : State) : AgentsOnly s s.passTick := by
  unfold State.passTick
  split <;> constructor <;> rfl

theorem State.tick_agentsOnly (s : State) : AgentsOnly s s.tick := by
  unfold State.tick
  split
  · split
    · exact s.shiftNext_agentsOnly.trans (State.passTick_agentsOnly _)
    · exact s.passTick_agentsOnly
  · exact .refl s

theorem State.pull_agentsOnly (s : State) (free : Nat) : AgentsOnly s (s.pull free) := by
  unfold State.pull
  split <;> constructor <;> rfl

theorem State.complete_agentsOnly (s : State) : AgentsOnly s s.complete := by
  unfold State.complete
  split <;> constructor <;> rfl

theorem State.move_agentsOnly (s : State) (m : Move) : AgentsOnly s (s.move m) := by
  cases m
  · exact s.pull_agentsOnly _
  · exact s.shiftNext_agentsOnly
  · exact s.tick_agentsOnly
  · exact s.complete_agentsOnly

@[simp] theorem State.moves_nil (s : State) : s.moves [] = s := rfl

@[simp] theorem State.moves_cons (s : State) (m : Move) (ms : List Move) : s.moves (m :: ms) = (s.move m).moves ms := rfl

theorem State.moves_append (s : State) (ms ns : List Move) : s.moves (ms ++ ns) = (s.moves ms).moves ns :=
  List.foldl_append ..

theorem State.moves_agentsOnly (s : State) (ms : List Move) : AgentsOnly s (s.moves ms) := by
  induction ms generalizing s with
  | nil => exact .refl s
  | cons m ms ih => exact (s.move_agentsOnly m).trans (ih _)

/-- A law of the state that every step of an agent keeps, many keep. -/
theorem State.moves_induct {P : State → Prop} (step : ∀ s m, P s → P (s.move m)) {s : State} (h : P s) (ms : List Move) :
    P (s.moves ms) := by
  induction ms generalizing s with
  | nil => exact h
  | cons m ms ih => exact ih (step s m h)

/-- Drawing a turn changes only what is drawn from. -/
theorem State.takeTurn_cases (s : State) :
    (∃ t rest, s.turns = t :: rest ∧ s.takeTurn = (t, { s with turns := rest })) ∨
    (s.turns = [] ∧ s.takeTurn = (Config.freeTurn s.drawn, { s with drawn := s.drawn + 1 })) := by
  unfold State.takeTurn
  split
  · exact .inl ⟨_, _, ‹_›, rfl⟩
  · exact .inr ⟨‹_›, rfl⟩

theorem State.takeTurn_agentsOnly (s : State) : AgentsOnly s s.takeTurn.2 := by
  rcases s.takeTurn_cases with ⟨_, _, -, h⟩ | ⟨-, h⟩ <;> rw [h] <;> constructor <;> rfl

theorem State.agentsTurn_of_quiet {s : State} (h : s.quiet = true) : s.agentsTurn = s := by
  simp [State.agentsTurn, h]

theorem State.agentsTurn_agentsOnly (s : State) : AgentsOnly s s.agentsTurn := by
  unfold State.agentsTurn
  split
  · exact .refl s
  · exact s.takeTurn_agentsOnly.trans (State.moves_agentsOnly _ _)

/-! ## A list of writes of the HOST -/

/-- The high-water mark a write asks for. -/
def HostWrite.mark : HostWrite → Nat
  | .byte _ _ => 0
  | .used i => i.val + 1

/-- A write within the buffer. -/
def HostWrite.inRange : HostWrite → Prop
  | .byte a _ => a < pixelBytes
  | .used _ => True

theorem advanceCount_val (i : Fin 256) (u : Fin 257) : (advanceCount i u).val = max u.val (i.val + 1) := by
  unfold advanceCount
  split <;> simp_all
  omega

theorem State.hostWrite_usedCount (s : State) (w : HostWrite) :
    (s.hostWrite w).usedCount.val = max s.usedCount.val w.mark := by
  cases w
  · simp [State.hostWrite, HostWrite.mark]
  · simp only [State.hostWrite, HostWrite.mark]; exact advanceCount_val _ _

theorem State.hostWrite_wf {s : State} (h : s.pixels.wf) (w : HostWrite) : (s.hostWrite w).pixels.wf := by
  cases w
  · exact State.storeByte_wf h _ _
  · exact h

theorem State.foldl_wf {s : State} (h : s.pixels.wf) (ws : List HostWrite) : (ws.foldl State.hostWrite s).pixels.wf := by
  induction ws generalizing s with
  | nil => exact h
  | cons w ws ih => exact ih (State.hostWrite_wf h w)

/-- The writes change the buffer and `used_count` as those alone say, and nothing else. -/
theorem State.foldl_eq (s : State) (ws : List HostWrite) :
    ws.foldl State.hostWrite s =
      { s with pixels := (ws.foldl State.hostWrite s).pixels, usedCount := (ws.foldl State.hostWrite s).usedCount } := by
  induction ws generalizing s with
  | nil => rfl
  | cons w ws ih =>
    rw [List.foldl_cons, ih]
    cases w <;> rfl

theorem State.hostWrite_congr {s t : State} (hp : s.pixels = t.pixels) (hu : s.usedCount = t.usedCount) (w : HostWrite) :
    (s.hostWrite w).pixels = (t.hostWrite w).pixels ∧ (s.hostWrite w).usedCount = (t.hostWrite w).usedCount := by
  cases w <;> simp [State.hostWrite, hp, hu]

theorem State.foldl_congr {s t : State} (hp : s.pixels = t.pixels) (hu : s.usedCount = t.usedCount)
    (ws : List HostWrite) :
    (ws.foldl State.hostWrite s).pixels = (ws.foldl State.hostWrite t).pixels ∧
      (ws.foldl State.hostWrite s).usedCount = (ws.foldl State.hostWrite t).usedCount := by
  induction ws generalizing s t with
  | nil => exact ⟨hp, hu⟩
  | cons w ws ih =>
    have := State.hostWrite_congr hp hu w
    exact ih this.1 this.2

theorem State.foldl_usedCount (s : State) (ws : List HostWrite) :
    (ws.foldl State.hostWrite s).usedCount.val = max s.usedCount.val ((ws.map HostWrite.mark).foldr max 0) := by
  induction ws generalizing s with
  | nil => simp
  | cons w ws ih => rw [List.foldl_cons, ih, State.hostWrite_usedCount]; simp [Nat.max_assoc]

/-- An address no write of the list names keeps its byte. -/
theorem State.foldl_read_other {s : State} (h : s.pixels.wf) {ws : List HostWrite} (hr : ∀ w ∈ ws, w.inRange) {a : Nat}
    (ha : ∀ v, HostWrite.byte a v ∉ ws) : (ws.foldl State.hostWrite s).pixels.read a = s.pixels.read a := by
  induction ws generalizing s with
  | nil => rfl
  | cons w ws ih =>
    rw [List.foldl_cons, ih (State.hostWrite_wf h w) (fun w' hw' => hr w' (List.mem_cons_of_mem _ hw'))
      (fun v hv => ha v (List.mem_cons_of_mem _ hv))]
    cases w with
    | byte b v =>
      have hb : b < pixelBytes := hr _ (List.mem_cons_self ..)
      simp only [State.hostWrite]
      rw [State.storeByte_read h hb, if_neg]
      rintro rfl
      exact ha v (List.mem_cons_self ..)
    | used i => rfl

/-- An address that writes of the list name, all with one value, has that value. -/
theorem State.foldl_read_written {s : State} (h : s.pixels.wf) {ws : List HostWrite} (hr : ∀ w ∈ ws, w.inRange) {a : Nat}
    {x : Byte} (hx : HostWrite.byte a x ∈ ws) (ha : ∀ v, HostWrite.byte a v ∈ ws → v = x) :
    (ws.foldl State.hostWrite s).pixels.read a = x := by
  induction ws generalizing s with
  | nil => cases hx
  | cons w ws ih =>
    have hr' : ∀ w' ∈ ws, w'.inRange := fun w' hw' => hr w' (List.mem_cons_of_mem _ hw')
    rw [List.foldl_cons]
    by_cases hmem : HostWrite.byte a x ∈ ws
    · exact ih (State.hostWrite_wf h w) hr' hmem fun v hv => ha v (List.mem_cons_of_mem _ hv)
    · have hw : w = HostWrite.byte a x := by
        rcases List.mem_cons.1 hx with h | h
        · exact h.symm
        · exact absurd h hmem
      subst hw
      rw [State.foldl_read_other (State.hostWrite_wf h _) hr']
      · simp only [State.hostWrite]
        rw [State.storeByte_read h (hr _ (List.mem_cons_self ..)), if_pos rfl]
      · intro v hv
        have := ha v (List.mem_cons_of_mem _ hv)
        subst this
        exact hmem hv

/-! ## Interleaved writes -/

/-- What interleaved writes amount to: some order of the writes, and steps of the other agents. -/
theorem State.writeInterleaved_spec (k : Nat) (ws : List HostWrite) (hk : ws.length = k) (s : State) :
    ∃ (u : State) (ws' : List HostWrite), ws'.Perm ws ∧ AgentsOnly s u ∧
      State.writeInterleaved k ws s =
        { u with
          pixels := (ws'.foldl State.hostWrite s).pixels
          usedCount := (ws'.foldl State.hostWrite s).usedCount } := by
  induction k generalizing ws s with
  | zero =>
    have : ws = [] := List.length_eq_zero_iff.1 hk
    subst this
    exact ⟨s, [], .refl _, .refl s, rfl⟩
  | succ k ih =>
    have hs' := s.takeTurn_agentsOnly.trans (State.moves_agentsOnly s.takeTurn.2 s.takeTurn.1.moves)
    have hlt : s.takeTurn.1.pick % ws.length < ws.length := Nat.mod_lt _ (by omega)
    simp only [State.writeInterleaved]
    generalize hmv : s.takeTurn.2.moves s.takeTurn.1.moves = s' at hs' ⊢
    generalize s.takeTurn.1.pick % ws.length = p at hlt ⊢
    rw [List.getElem?_eq_getElem hlt]
    dsimp only
    obtain ⟨u, ws'', hperm, hu, heq⟩ := ih (ws.eraseIdx p) (by rw [List.length_eraseIdx]; simp [hlt]; omega)
      (s'.hostWrite ws[p])
    have hcong := State.hostWrite_congr (s := s) (t := s') hs'.pixels.symm hs'.usedCount.symm ws[p]
    have hfold := State.foldl_congr (s := s.hostWrite ws[p]) (t := s'.hostWrite ws[p]) hcong.1 hcong.2 ws''
    refine ⟨{ u with pixels := s.pixels, usedCount := s.usedCount }, ws[p] :: ws'', ?_, ?_, ?_⟩
    · exact (hperm.cons _).trans (List.getElem_cons_eraseIdx_perm hlt)
    · have hframe : ∀ w : HostWrite, (s'.hostWrite w).txLength = s'.txLength ∧
          (s'.hostWrite w).initialized = s'.initialized ∧ (s'.hostWrite w).halted = s'.halted ∧
          (s'.hostWrite w).channel = s'.channel ∧ (s'.hostWrite w).host = s'.host ∧
          (s'.hostWrite w).response = s'.response ∧ (s'.hostWrite w).events = s'.events ∧
          (s'.hostWrite w).calls = s'.calls ∧ (s'.hostWrite w).cmdWords = s'.cmdWords ∧
          (s'.hostWrite w).answers = s'.answers := by
        intro w; cases w <;> simp [State.hostWrite]
      obtain ⟨h1, h2, h3, h4, h5, h6, h7, h8, h9, h10⟩ := hframe ws[p]
      exact ⟨rfl, rfl, (hu.txLength.trans h1).trans hs'.txLength, (hu.initialized.trans h2).trans hs'.initialized,
        (hu.halted.trans h3).trans hs'.halted, (hu.channel.trans h4).trans hs'.channel, (hu.host.trans h5).trans hs'.host,
        (hu.response.trans h6).trans hs'.response, (hu.events.trans h7).trans hs'.events,
        (hu.calls.trans h8).trans hs'.calls, (hu.cmdWords.trans h9).trans hs'.cmdWords,
        (hu.answers.trans h10).trans hs'.answers⟩
    · rw [heq, List.foldl_cons, hfold.1, hfold.2]

/-- What the HOST's separate writes amount to, in every state: some order of the writes, and steps of the other agents;
where nothing is on its way to the wire there are no such steps. -/
theorem State.hostWrites_spec (s : State) (ws : List HostWrite) :
    ∃ (u : State) (ws' : List HostWrite), ws'.Perm ws ∧ AgentsOnly s u ∧ (s.quiet = true → u = s) ∧
      s.hostWrites ws =
        { u with
          pixels := (ws'.foldl State.hostWrite s).pixels
          usedCount := (ws'.foldl State.hostWrite s).usedCount } := by
  unfold State.hostWrites
  split
  · exact ⟨s, ws, .refl _, .refl s, fun _ => rfl, State.foldl_eq s ws⟩
  · rename_i h
    obtain ⟨u, ws', hp, hu, heq⟩ := State.writeInterleaved_spec _ ws rfl s
    exact ⟨u, ws', hp, hu, fun hq => absurd hq h, heq⟩

/-! ## Laws kept by every turn and every write -/

/-- A law that a draw and every step of an agent keep, a turn keeps. -/
theorem State.turn_induct {P : State → Prop} (draw : ∀ s, P s → P s.takeTurn.2) (move : ∀ s m, P s → P (s.move m)) {s : State}
    (h : P s) : P (s.takeTurn.2.moves s.takeTurn.1.moves) :=
  State.moves_induct move (draw s h) _

theorem State.agentsTurn_induct {P : State → Prop} (draw : ∀ s, P s → P s.takeTurn.2) (move : ∀ s m, P s → P (s.move m))
    {s : State} (h : P s) : P s.agentsTurn := by
  unfold State.agentsTurn
  split
  · exact h
  · exact State.turn_induct draw move h

/-- A law that a draw, every step of an agent and every write keep, separate writes of the HOST keep. -/
theorem State.hostWrites_induct {P : State → Prop} (draw : ∀ s, P s → P s.takeTurn.2) (move : ∀ s m, P s → P (s.move m))
    (write : ∀ s w, P s → P (s.hostWrite w)) {s : State} (h : P s) (ws : List HostWrite) : P (s.hostWrites ws) := by
  have inter : ∀ (k : Nat) (ws : List HostWrite) (s : State), P s → P (State.writeInterleaved k ws s) := by
    intro k
    induction k with
    | zero => exact fun _ _ h => h
    | succ k ih =>
      intro ws s h
      have ht := State.turn_induct draw move h
      simp only [State.writeInterleaved]
      split
      · exact ht
      · exact ih _ _ (write _ _ ht)
  unfold State.hostWrites
  split
  · exact List.foldlRecOn ws State.hostWrite h fun t ht w _ => write t w ht
  · exact inter _ _ _ h

end Sys2Proof.Machine
end

