-- ==== Sys2Proof/Laws/PixelBuffer.lean ====
section
/-! SUPPORT. What the stores of SET and CLEAR_ALL amount to, in every state. -/

namespace Sys2Proof.Machine

theorem setWrites_inRange (i : Fin 256) (c : Colour) : ∀ w ∈ setWrites i c, w.inRange := by
  intro w hw
  have := i.isLt
  simp only [setWrites, List.mem_cons, List.not_mem_nil, or_false] at hw
  rcases hw with rfl | rfl | rfl | rfl <;> simp only [HostWrite.inRange, pixelAddr, pixelBytes] <;> omega

theorem storeLed_wf {m : Memory} (h : m.wf) {i : Nat} (hi : i < maxLeds) (c : Colour) : (storeLed m i c).wf := by
  have : pixelAddr i 2 < pixelBytes ∧ pixelAddr i 1 < pixelBytes ∧ pixelAddr i 0 < pixelBytes := by
    simp only [pixelAddr, pixelBytes, maxLeds] at *; omega
  exact Memory.write_wf (Memory.write_wf (Memory.write_wf h this.2.2 _) this.2.1 _) this.1 _

/-- What a stored LED leaves at every address. -/
theorem storeLed_read {m : Memory} (h : m.wf) {i : Nat} (hi : i < maxLeds) (c : Colour) (a : Nat) :
    (storeLed m i c).read a =
      if a = pixelAddr i 0 then c.green else if a = pixelAddr i 1 then c.red
      else if a = pixelAddr i 2 then c.blue else m.read a := by
  have hb : pixelAddr i 1 < pixelBytes ∧ pixelAddr i 0 < pixelBytes := by
    simp only [pixelAddr, pixelBytes, maxLeds] at *; omega
  have h0 := Memory.write_wf h hb.2 c.green
  have h1 := Memory.write_wf h0 hb.1 c.red
  rw [storeLed, Memory.read_write h1, Memory.read_write h0, Memory.read_write h]
  simp only [pixelAddr]
  by_cases h2 : a = 3 * i + 2
  · rw [if_pos h2, if_neg (by omega), if_neg (by omega), if_pos h2]
  · rw [if_neg h2, if_neg h2]
    by_cases h1 : a = 3 * i + 1
    · rw [if_pos h1, if_neg (by omega), if_pos h1]
    · rw [if_neg h1, if_neg h1]

theorem byte_mem_setWrites {i : Fin 256} {c : Colour} {a : Nat} {v : Byte} :
    HostWrite.byte a v ∈ setWrites i c ↔
      (a = pixelAddr i.val 0 ∧ v = c.green) ∨ (a = pixelAddr i.val 1 ∧ v = c.red) ∨
        (a = pixelAddr i.val 2 ∧ v = c.blue) := by
  simp [setWrites]

/-- In whatever order the writes of a SET are done, they store the LED. -/
theorem setWrites_pixels {s : State} (h : s.pixels.wf) (i : Fin 256) (c : Colour) {ws : List HostWrite}
    (hp : ws.Perm (setWrites i c)) : (ws.foldl State.hostWrite s).pixels = storeLed s.pixels i.val c := by
  have hr : ∀ w ∈ ws, w.inRange := fun w hw => setWrites_inRange i c w (hp.mem_iff.1 hw)
  refine Memory.ext (State.foldl_wf h ws) (storeLed_wf h i.isLt c) fun a => ?_
  rw [storeLed_read h i.isLt]
  split_ifs with h0 h1 h2
  · refine State.foldl_read_written h hr (hp.mem_iff.2 (byte_mem_setWrites.2 (.inl ⟨h0, rfl⟩))) fun v hv => ?_
    have := byte_mem_setWrites.1 (hp.mem_iff.1 hv)
    simp only [pixelAddr] at *
    rcases this with h | h | h <;> first | exact h.2 | omega
  · refine State.foldl_read_written h hr (hp.mem_iff.2 (byte_mem_setWrites.2 (.inr (.inl ⟨h1, rfl⟩)))) fun v hv => ?_
    have := byte_mem_setWrites.1 (hp.mem_iff.1 hv)
    simp only [pixelAddr] at *
    rcases this with h | h | h <;> first | exact h.2 | omega
  · refine State.foldl_read_written h hr (hp.mem_iff.2 (byte_mem_setWrites.2 (.inr (.inr ⟨h2, rfl⟩)))) fun v hv => ?_
    have := byte_mem_setWrites.1 (hp.mem_iff.1 hv)
    simp only [pixelAddr] at *
    rcases this with h | h | h <;> first | exact h.2 | omega
  · refine State.foldl_read_other h hr fun v hv => ?_
    rcases byte_mem_setWrites.1 (hp.mem_iff.1 hv) with h | h | h <;> simp_all

theorem setWrites_usedCount (s : State) (i : Fin 256) (c : Colour) {ws : List HostWrite} (hp : ws.Perm (setWrites i c)) :
    (ws.foldl State.hostWrite s).usedCount = advanceCount i s.usedCount := by
  apply Fin.ext
  rw [State.foldl_usedCount, advanceCount_val, (hp.map HostWrite.mark).foldr_eq' (fun x _ y _ z => by omega)]
  simp [setWrites, HostWrite.mark]

/-- A SET in range without its response, in every state with a canonical buffer. -/
theorem State.setLed_inRange {s : State} (h : s.pixels.wf) {index : Nat} (hi : index < 256) (c : Colour) :
    ∃ u, AgentsOnly s u ∧ (s.quiet = true → u = s) ∧
      s.setLed index c =
        { u with pixels := storeLed s.pixels index c, usedCount := advanceCount ⟨index, hi⟩ s.usedCount } := by
  obtain ⟨u, ws', hp, hu, hq, heq⟩ := s.hostWrites_spec (setWrites ⟨index, hi⟩ c)
  refine ⟨u, hu, hq, ?_⟩
  rw [State.setLed, dif_pos hi, heq, setWrites_pixels h _ c hp, setWrites_usedCount s _ c hp]

theorem State.setLed_outOfRange (s : State) {index : Nat} (hi : 256 ≤ index) (c : Colour) :
    s.setLed index c = s.emit (.logOutOfRange index) := by
  rw [State.setLed, dif_neg (by omega)]; rfl

theorem byte_mem_clearWrites {a : Nat} {v : Byte} : HostWrite.byte a v ∈ clearWrites ↔ a < pixelBytes ∧ v = 0 := by
  simp only [clearWrites, List.mem_map, List.mem_range, HostWrite.byte.injEq]
  constructor
  · rintro ⟨b, hb, rfl, rfl⟩; exact ⟨hb, rfl⟩
  · rintro ⟨ha, rfl⟩; exact ⟨a, ha, rfl, rfl⟩

theorem clearWrites_inRange : ∀ w ∈ clearWrites, w.inRange := by
  intro w hw
  simp only [clearWrites, List.mem_map, List.mem_range] at hw
  obtain ⟨a, ha, rfl⟩ := hw
  exact ha

/-- In whatever order the zeroing writes are done, every byte is 0. -/
theorem clearWrites_pixels {s : State} (h : s.pixels.wf) {ws : List HostWrite} (hp : ws.Perm clearWrites) :
    (ws.foldl State.hostWrite s).pixels = [] := by
  have hr : ∀ w ∈ ws, w.inRange := fun w hw => clearWrites_inRange w (hp.mem_iff.1 hw)
  refine Memory.ext (State.foldl_wf h ws) Memory.wf_nil fun a => ?_
  by_cases ha : a < pixelBytes
  · exact State.foldl_read_written h hr (hp.mem_iff.2 (byte_mem_clearWrites.2 ⟨ha, rfl⟩)) fun v hv =>
      (byte_mem_clearWrites.1 (hp.mem_iff.1 hv)).2
  · rw [Memory.read_of_ge (State.foldl_wf h ws) (by omega)]; rfl

/-- The zeroing of CLEAR_ALL, in every state with a canonical buffer. -/
theorem State.hostWrites_clear {s : State} (h : s.pixels.wf) :
    ∃ u n, AgentsOnly s u ∧ (s.quiet = true → u = s) ∧
      s.hostWrites clearWrites = { u with pixels := [], usedCount := n } := by
  obtain ⟨u, ws', hp, hu, hq, heq⟩ := s.hostWrites_spec clearWrites
  exact ⟨u, _, hu, hq, by rw [heq, clearWrites_pixels h hp]⟩

end Sys2Proof.Machine
end

