-- ==== Sys2Proof/Laws/Transmit.lean ====
section
/-! SUPPORT. Everything a platform call, the wait, the issue and a FLUSH can do. -/

namespace Sys2Proof.Machine

/-- Drawing an answer changes only what is drawn from. -/
theorem State.takeAnswer_cases (s : State) :
    (∃ a rest, s.answers = a :: rest ∧ s.takeAnswer = (a, { s with answers := rest })) ∨
    (s.answers = [] ∧ s.takeAnswer = (Config.freeAnswer s.drawn, { s with drawn := s.drawn + 1 })) := by
  unfold State.takeAnswer
  split
  · exact .inl ⟨_, _, ‹_›, rfl⟩
  · exact .inr ⟨‹_›, rfl⟩

theorem State.takeAnswer_of_cons {s : State} {a : Answer} {rest : List Answer} (h : s.answers = a :: rest) :
    s.takeAnswer = (a, { s with answers := rest }) := by
  unfold State.takeAnswer
  rw [h]

/-- The state after a draw, and after a call: the same but for `answers`, `drawn` and `calls`. -/
theorem State.takeAnswer_eq (s : State) :
    s.takeAnswer.2 = { s with answers := s.takeAnswer.2.answers, drawn := s.takeAnswer.2.drawn } := by
  rcases s.takeAnswer_cases with ⟨_, _, -, h⟩ | ⟨-, h⟩ <;> rw [h]

theorem State.platformCall_eq (s : State) (c : Call) :
    (s.platformCall c).2 =
      { s with
        calls := s.calls ++ [c]
        answers := (s.platformCall c).2.answers
        drawn := (s.platformCall c).2.drawn } :=
  State.takeAnswer_eq (s.recordCall c)

/-- A call answered by the first of State's answers. -/
theorem State.platformCall_of_cons {s : State} {a : Answer} {rest : List Answer} (h : s.answers = a :: rest) (c : Call) :
    s.platformCall c =
      (if c.rejected then .fail else a, { s with calls := s.calls ++ [c], answers := rest }) := by
  simp only [State.platformCall]
  rw [State.takeAnswer_of_cons (s := s.recordCall c) h]
  rfl

theorem State.transmit_cases (s : State) (leds : Fin 257) :
    ((s.platformCall (.transmit (bytesOfLeds leds).val)).1 = .fail ∧
      s.transmit leds = ((s.platformCall (.transmit (bytesOfLeds leds).val)).2.emit (.hardwareFault .transmit)).halt) ∨
    ((s.platformCall (.transmit (bytesOfLeds leds).val)).1 = .ok ∧
      s.transmit leds = ((s.platformCall (.transmit (bytesOfLeds leds).val)).2.issue leds).respond .ok none) := by
  simp only [State.transmit]
  split
  · exact .inl ⟨‹_›, rfl⟩
  · exact .inr ⟨‹_›, rfl⟩

theorem State.awaitDone_cases (s : State) (leds : Fin 257) :
    (s.takeAnswer.1 = .fail ∧ s.awaitDone leds = (s.takeAnswer.2.emit (.hardwareFault .waitAllDone)).halt) ∨
    (s.takeAnswer.1 = .ok ∧ s.txInFlight = true ∧ s.awaitDone leds = s.takeAnswer.2.wait leds) ∨
    (s.takeAnswer.1 = .ok ∧ s.txInFlight = false ∧ s.awaitDone leds = s.takeAnswer.2.transmit leds) := by
  unfold State.awaitDone
  split
  · exact .inl ⟨‹_›, rfl⟩
  · split
    · exact .inr (.inl ⟨‹_›, ‹_›, rfl⟩)
    · rename_i ha hf
      exact .inr (.inr ⟨ha, by simpa using hf, rfl⟩)

/-- What a FLUSH, from its clamp or from its wait, never writes. -/
structure FlushFrame (s t : State) : Prop where
  pixels : t.pixels = s.pixels
  usedCount : t.usedCount = s.usedCount
  ring : t.ring = s.ring
  pin : t.pin = s.pin
  shift : t.shift = s.shift
  initialized : t.initialized = s.initialized
  channel : t.channel = s.channel
  txUnderrun : t.txUnderrun = s.txUnderrun
  pullResponse : t.pullResponse = s.pullResponse
  wire : t.wire = s.wire
  wave : t.wave = s.wave
  cmdWords : t.cmdWords = s.cmdWords
  turns : t.turns = s.turns

theorem FlushFrame.trans {s t u : State} (h : FlushFrame s t) (k : FlushFrame t u) : FlushFrame s u where
  pixels := k.pixels.trans h.pixels
  usedCount := k.usedCount.trans h.usedCount
  ring := k.ring.trans h.ring
  pin := k.pin.trans h.pin
  shift := k.shift.trans h.shift
  initialized := k.initialized.trans h.initialized
  channel := k.channel.trans h.channel
  txUnderrun := k.txUnderrun.trans h.txUnderrun
  pullResponse := k.pullResponse.trans h.pullResponse
  wire := k.wire.trans h.wire
  wave := k.wave.trans h.wave
  cmdWords := k.cmdWords.trans h.cmdWords
  turns := k.turns.trans h.turns

theorem State.takeAnswer_frame (s : State) : FlushFrame s s.takeAnswer.2 := by
  rw [s.takeAnswer_eq]; constructor <;> rfl

theorem State.platformCall_frame (s : State) (c : Call) : FlushFrame s (s.platformCall c).2 := by
  rw [s.platformCall_eq c]; constructor <;> rfl

theorem State.transmit_frame (s : State) (leds : Fin 257) : FlushFrame s (s.transmit leds) := by
  rcases s.transmit_cases leds with ⟨-, h⟩ | ⟨-, h⟩ <;> rw [h] <;>
    exact FlushFrame.trans (s.platformCall_frame (.transmit (bytesOfLeds leds).val)) (by constructor <;> rfl)

theorem State.awaitDone_frame (s : State) (leds : Fin 257) : FlushFrame s (s.awaitDone leds) := by
  rcases s.awaitDone_cases leds with ⟨-, h⟩ | ⟨-, -, h⟩ | ⟨-, -, h⟩ <;> rw [h]
  · exact s.takeAnswer_frame.trans (by constructor <;> rfl)
  · exact s.takeAnswer_frame.trans (by constructor <;> rfl)
  · exact s.takeAnswer_frame.trans (State.transmit_frame _ _)

theorem State.flush_frame (s : State) (count : Nat) : FlushFrame s (s.flush count) :=
  FlushFrame.trans (by constructor <;> rfl) (State.awaitDone_frame (s.recordCall .waitAllDone) _)

/-- An issue the platform accepts. -/
theorem State.transmit_of_ok {s : State} {rest : List Answer} (h : s.answers = .ok :: rest) (leds : Fin 257)
    (hr : (Call.transmit (bytesOfLeds leds).val).rejected = false) :
    s.transmit leds =
      { s with
        txLength := bytesOfLeds leds
        symbolsWritten := 0
        txDone := false
        txInFlight := true
        response := some ⟨.ok, none⟩
        host := .idle
        calls := s.calls ++ [.transmit (bytesOfLeds leds).val]
        answers := rest } := by
  simp only [State.transmit, State.platformCall_of_cons h, hr]
  rfl

/-- An issue the platform does not accept, by its answer or because it cannot. -/
theorem State.transmit_of_fail {s : State} {a : Answer} {rest : List Answer} (h : s.answers = a :: rest) (leds : Fin 257)
    (hr : a = .fail ∨ (Call.transmit (bytesOfLeds leds).val).rejected = true) :
    s.transmit leds =
      { s with
        events := s.events ++ [.hardwareFault .transmit]
        halted := true
        response := none
        host := .idle
        calls := s.calls ++ [.transmit (bytesOfLeds leds).val]
        answers := rest } := by
  have hf : (if (Call.transmit (bytesOfLeds leds).val).rejected then Answer.fail else a) = .fail := by
    rcases hr with rfl | hr
    · exact ite_self _
    · rw [if_pos hr]
  simp only [State.transmit, State.platformCall_of_cons h, hf]
  rfl

/-- A wait that fails. -/
theorem State.awaitDone_of_fail {s : State} {rest : List Answer} (h : s.answers = .fail :: rest) (leds : Fin 257) :
    s.awaitDone leds =
      { s with
        events := s.events ++ [.hardwareFault .waitAllDone]
        halted := true
        response := none
        host := .idle
        answers := rest } := by
  simp only [State.awaitDone, State.takeAnswer_of_cons h]
  rfl

/-- A wait that is over. -/
theorem State.awaitDone_of_ok {s : State} {rest : List Answer} (h : s.answers = .ok :: rest) (hf : s.txInFlight = false)
    (leds : Fin 257) : s.awaitDone leds = State.transmit { s with answers := rest } leds := by
  simp [State.awaitDone, State.takeAnswer_of_cons h, hf]

/-- A wait that goes on. -/
theorem State.awaitDone_of_inFlight {s : State} {rest : List Answer} (h : s.answers = .ok :: rest)
    (hf : s.txInFlight = true) (leds : Fin 257) : s.awaitDone leds = State.wait { s with answers := rest } leds := by
  simp [State.awaitDone, State.takeAnswer_of_cons h, hf]

/-- A FLUSH whose two calls are answered `ok` while nothing is in flight, over `n` LEDs the platform accepts. -/
theorem State.flush_issues {s : State} {rest : List Answer} (ha : s.answers = .ok :: .ok :: rest)
    (hf : s.txInFlight = false) (count : Nat)
    (hr : (Call.transmit (bytesOfLeds (clampCount count s.usedCount)).val).rejected = false) :
    s.flush count =
      { s with
        txLength := bytesOfLeds (clampCount count s.usedCount)
        symbolsWritten := 0
        txDone := false
        txInFlight := true
        response := some ⟨.ok, none⟩
        host := .idle
        calls := s.calls ++ [.waitAllDone, .transmit (bytesOfLeds (clampCount count s.usedCount)).val]
        answers := rest } := by
  have h1 := State.awaitDone_of_ok (s := s.recordCall .waitAllDone) ha hf (clampCount count s.usedCount)
  have h2 := State.transmit_of_ok (s := { s.recordCall .waitAllDone with answers := .ok :: rest }) rfl _ hr
  rw [State.flush, h1, h2]
  simp [State.recordCall]

/-- A FLUSH whose `transmit` fails. -/
theorem State.flush_of_fail {s : State} {a : Answer} {rest : List Answer} (ha : s.answers = .ok :: a :: rest)
    (hf : s.txInFlight = false) (count : Nat)
    (hr : a = .fail ∨ (Call.transmit (bytesOfLeds (clampCount count s.usedCount)).val).rejected = true) :
    s.flush count =
      { s with
        events := s.events ++ [.hardwareFault .transmit]
        halted := true
        response := none
        host := .idle
        calls := s.calls ++ [.waitAllDone, .transmit (bytesOfLeds (clampCount count s.usedCount)).val]
        answers := rest } := by
  have h1 := State.awaitDone_of_ok (s := s.recordCall .waitAllDone) ha hf (clampCount count s.usedCount)
  have h2 := State.transmit_of_fail (s := { s.recordCall .waitAllDone with answers := a :: rest }) rfl _ hr
  rw [State.flush, h1, h2]
  simp [State.recordCall]

/-- A `transmit` of zero bytes and of some. -/
theorem Call.transmit_rejected (leds : Fin 257) :
    (Call.transmit (bytesOfLeds leds).val).rejected = true ↔ leds = 0 ∧ Config.zeroLengthTx = .fault := by
  have : (3 * leds.val = 0) ↔ leds = 0 := by
    constructor
    · intro h; exact Fin.ext (by simp only [Fin.val_zero]; omega)
    · rintro rfl; rfl
  simp only [Call.rejected, bytesOfLeds, Bool.and_eq_true, beq_iff_eq, this]

/-- A FLUSH that meets a transmission in flight. -/
theorem State.flush_of_inFlight {s : State} {rest : List Answer} (ha : s.answers = .ok :: rest) (hf : s.txInFlight = true)
    (count : Nat) :
    s.flush count =
      { s with
        host := .waiting (clampCount count s.usedCount)
        response := none
        calls := s.calls ++ [.waitAllDone]
        answers := rest } := by
  rw [State.flush, State.awaitDone_of_inFlight (s := s.recordCall .waitAllDone) ha hf]
  rfl

/-- A FLUSH whose wait fails. -/
theorem State.flush_of_waitFail {s : State} {rest : List Answer} (ha : s.answers = .fail :: rest) (count : Nat) :
    s.flush count =
      { s with
        events := s.events ++ [.hardwareFault .waitAllDone]
        halted := true
        response := none
        host := .idle
        calls := s.calls ++ [.waitAllDone]
        answers := rest } := by
  rw [State.flush, State.awaitDone_of_fail (s := s.recordCall .waitAllDone) ha]
  rfl

end Sys2Proof.Machine
end

