-- ==== Sys2Proof/Laws/Commands.lean ====
section
/-! SUPPORT. What the parameter loop of LED, and INIT and CLEAR_ALL as wholes, can do. -/

namespace Sys2Proof.Machine

/-! ## The parameter loop of LED -/

theorem storeParams_wf {m : Memory} (h : m.wf) (k : Nat) (ps : List Word) : (storeParams m k ps).wf := by
  induction ps generalizing m k with
  | nil => exact h
  | cons p ps ih =>
    refine ih ?_ _
    split
    · exact storeLed_wf h ‹_› _
    · exact h

theorem usedAfter_zero (u : Fin 257) (k : Nat) : usedAfter u k 0 = u := rfl

theorem usedAfter_succ {k : Nat} (hk : k < 256) (u : Fin 257) (n : Nat) :
    usedAfter (advanceCount ⟨k, hk⟩ u) (k + 1) n = usedAfter u k (n + 1) := by
  apply Fin.ext
  have hu := u.isLt
  have ha := advanceCount_val ⟨k, hk⟩ u
  by_cases hn : n = 0
  · subst hn; simp only [usedAfter, if_true, ha, maxLeds]; simp; omega
  · simp only [usedAfter, if_neg hn, ha, maxLeds]; simp; omega

theorem usedAfter_succ_high {k : Nat} (hk : 256 ≤ k) (u : Fin 257) (hu : u.val = 256) (n : Nat) :
    usedAfter u (k + 1) n = usedAfter u k (n + 1) := by
  apply Fin.ext
  by_cases hn : n = 0
  · subst hn; simp only [usedAfter, if_true, maxLeds]; simp; omega
  · simp only [usedAfter, if_neg hn, maxLeds]; simp; omega

theorem logsOf_zero (k : Nat) : logsOf k 0 = [] := rfl

theorem logsOf_low {k : Nat} (hk : k < 256) (n : Nat) : logsOf k (n + 1) = logsOf (k + 1) n := by
  have : ¬ 256 ≤ k := by omega
  simp [logsOf, List.range'_succ, maxLeds, this]

theorem logsOf_high {k : Nat} (hk : 256 ≤ k) (n : Nat) : logsOf k (n + 1) = .logOutOfRange k :: logsOf (k + 1) n := by
  simp [logsOf, List.range'_succ, maxLeds, hk]

/-- The valid parameters before a range error are applied as a whole list of them would be (R213). -/
theorem State.applyParams_error {ps : List Word} (hp : ∀ p ∈ ps, p.toNat ≤ 255) {q : Word} (hq : 255 < q.toNat)
    (qs : List Word) (k : Nat) (s : State) :
    State.applyParams (ps ++ q :: qs) k s = (some (.outOfRange (k + ps.length) q), (State.applyParams ps k s).2) := by
  induction ps generalizing k s with
  | nil => simp [State.applyParams, hq]
  | cons p ps ih =>
    have h := hp p (List.mem_cons_self ..)
    simp only [List.cons_append, State.applyParams, if_neg (Nat.not_lt.2 h)]
    rw [ih (fun p' hp' => hp p' (List.mem_cons_of_mem _ hp'))]
    simp [Nat.add_assoc, Nat.add_comm 1]

/-- A list of valid parameters, the first being number `k`, in every state with a canonical buffer in which LEDs below `k`
are in use (or `k` is 0): the colours are stored, the high-water mark advances, excess parameters are logged. -/
theorem State.applyParams_valid {ps : List Word} (hp : ∀ p ∈ ps, p.toNat ≤ 255) (k : Nat) {s : State} (h : s.pixels.wf)
    (hk : min k 256 ≤ s.usedCount.val) :
    ∃ u, AgentsOnly s u ∧ (s.quiet = true → u = s) ∧
      State.applyParams ps k s =
        (none,
          { u with
            pixels := storeParams s.pixels k ps
            usedCount := usedAfter s.usedCount k ps.length
            events := s.events ++ logsOf k ps.length }) := by
  induction ps generalizing k s with
  | nil =>
    refine ⟨s, .refl s, fun _ => rfl, ?_⟩
    simp [State.applyParams, storeParams, usedAfter_zero, logsOf_zero]
  | cons p ps ih =>
    have hle := hp p (List.mem_cons_self ..)
    have hps : ∀ p' ∈ ps, p'.toNat ≤ 255 := fun p' hp' => hp p' (List.mem_cons_of_mem _ hp')
    simp only [State.applyParams, if_neg (Nat.not_lt.2 hle), List.length_cons]
    by_cases hlt : k < 256
    · obtain ⟨u, hu, hq, heq⟩ := State.setLed_inRange h hlt (quantize (byte0 p))
      rw [heq]
      obtain ⟨v, hv, hqv, heqv⟩ := ih hps (k + 1)
        (s := { u with pixels := storeLed s.pixels k (quantize (byte0 p)), usedCount := advanceCount ⟨k, hlt⟩ s.usedCount })
        (storeLed_wf h hlt _) (by simp only [advanceCount_val]; omega)
      refine ⟨{ v with pixels := s.pixels, usedCount := s.usedCount }, ?_, ?_, ?_⟩
      · exact ⟨rfl, rfl, hv.txLength.trans hu.txLength, hv.initialized.trans hu.initialized, hv.halted.trans hu.halted,
          hv.channel.trans hu.channel, hv.host.trans hu.host, hv.response.trans hu.response, hv.events.trans hu.events,
          hv.calls.trans hu.calls, hv.cmdWords.trans hu.cmdWords, hv.answers.trans hu.answers⟩
      · intro hs
        rw [hqv (by rw [hq hs]; exact hs), hq hs]
      · rw [heqv]
        simp only [storeParams, if_pos hlt, usedAfter_succ hlt, logsOf_low hlt, hu.events]
    · obtain ⟨v, hv, hqv, heqv⟩ := ih hps (k + 1) (s := s.emit (.logOutOfRange k)) h
        (by simp only [State.emit_usedCount]; omega)
      have hused : s.usedCount.val = 256 := by have := s.usedCount.isLt; omega
      rw [State.setLed_outOfRange s (by omega)]
      refine ⟨{ v with events := s.events }, ?_, ?_, ?_⟩
      · exact ⟨hv.pixels, hv.usedCount, hv.txLength, hv.initialized, hv.halted, hv.channel, hv.host, hv.response, rfl,
          hv.calls, hv.cmdWords, hv.answers⟩
      · intro hs; rw [hqv hs]; rfl
      · rw [heqv]
        simp only [storeParams, if_neg hlt, State.emit_usedCount, State.emit_pixels, State.emit_events,
          usedAfter_succ_high (Nat.not_lt.1 hlt) _ hused, logsOf_high (Nat.not_lt.1 hlt), List.append_assoc,
          List.singleton_append]

/-- LED with valid parameters, in every state with a canonical buffer: the stores, then the FLUSH. -/
theorem State.ledCommand_valid {s : State} {ps : List Word} (h : s.pixels.wf) (hn : ps ≠ [])
    (hp : ∀ p ∈ ps, p.toNat ≤ 255) : s.ledCommand ps = (State.applyParams ps 0 s).2.flush ps.length := by
  obtain ⟨u, -, -, heq⟩ := State.applyParams_valid hp 0 h (by simp)
  cases ps with
  | nil => exact absurd rfl hn
  | cons p ps => simp only [State.ledCommand, heq]

/-- The LEDs its FLUSH sends: as many as parameters, at most 256. -/
theorem clampCount_usedAfter {n : Nat} (hn : n ≠ 0) (u : Fin 257) :
    (clampCount n (usedAfter u 0 n)).val = min n 256 := by
  have := u.isLt
  simp only [clampCount, usedAfter, if_neg hn, maxLeds]
  omega

/-! ## INIT -/

/-- INIT whose three calls are answered `ok`: the channel is configured, the block is started, and CLEAR_ALL runs. -/
theorem State.initialise_of_ok {s : State} {rest : List Answer} (h : s.answers = .ok :: .ok :: .ok :: rest) :
    s.initialise =
      State.clearAll
        { s with
          ring := []
          pin := .low
          txInFlight := false
          initialized := true
          channel := ⟨true, Config.pin, Sys2Proof.resolutionHz, Config.blockSymbols, Config.queueDepth, true, true⟩
          calls := s.calls ++ [acquireCall, .registerPullEncoder, .enable]
          answers := rest } := by
  simp only [State.initialise, State.platformCall_of_cons h, acquireCall, Call.rejected, Bool.false_eq_true, if_false,
    State.registerEncoder]
  rw [State.platformCall_of_cons (a := .ok) (rest := .ok :: rest) rfl]
  simp only [Call.rejected, Bool.false_eq_true, if_false, State.enableChannel]
  rw [State.platformCall_of_cons (a := .ok) (rest := rest) rfl]
  simp [Call.rejected, State.startBlock, acquiredChannel]

/-- A call and its answer. -/
theorem State.platformCall_cases (s : State) (c : Call) :
    ∃ (a : Answer) (answers : List Answer) (drawn : Nat),
      s.platformCall c = (a, { s with calls := s.calls ++ [c], answers := answers, drawn := drawn }) :=
  ⟨(s.platformCall c).1, _, _, Prod.ext rfl (s.platformCall_eq c)⟩

theorem State.enableChannel_cases (s : State) :
    ∃ (calls : List Call) (answers : List Answer) (drawn : Nat),
      s.enableChannel =
          (State.emit { s with calls := calls, answers := answers, drawn := drawn } (.hardwareFault .enable)).halt ∨
      s.enableChannel =
          State.startBlock
            { s with calls := calls, answers := answers, drawn := drawn, channel := { s.channel with enabled := true } } := by
  obtain ⟨a, answers, drawn, h⟩ := s.platformCall_cases .enable
  refine ⟨s.calls ++ [.enable], answers, drawn, ?_⟩
  simp only [State.enableChannel, h]
  cases a
  · exact .inr rfl
  · exact .inl rfl

theorem State.registerEncoder_cases (s : State) :
    ∃ (calls : List Call) (answers : List Answer) (drawn : Nat),
      s.registerEncoder =
          (State.emit { s with calls := calls, answers := answers, drawn := drawn }
            (.hardwareFault .registerPullEncoder)).halt ∨
      s.registerEncoder =
          State.enableChannel
            { s with
              calls := calls, answers := answers, drawn := drawn
              channel := { s.channel with encoderRegistered := true } } := by
  obtain ⟨a, answers, drawn, h⟩ := s.platformCall_cases .registerPullEncoder
  refine ⟨s.calls ++ [.registerPullEncoder], answers, drawn, ?_⟩
  simp only [State.registerEncoder, h]
  cases a
  · exact .inr rfl
  · exact .inl rfl

/-- Everything INIT can do: one of its three calls fails and the block halts, or it goes on to CLEAR_ALL. -/
theorem State.initialise_cases (s : State) :
    (∃ (c : Channel) (calls : List Call) (answers : List Answer) (drawn : Nat) (name : CallName),
      s.initialise =
        (State.emit { s with channel := c, calls := calls, answers := answers, drawn := drawn }
          (.hardwareFault name)).halt) ∨
    (∃ (calls : List Call) (answers : List Answer) (drawn : Nat),
      s.initialise =
        State.clearAll
          { s with
            ring := []
            pin := .low
            txInFlight := false
            initialized := true
            channel := ⟨true, Config.pin, Sys2Proof.resolutionHz, Config.blockSymbols, Config.queueDepth, true, true⟩
            calls := calls
            answers := answers
            drawn := drawn }) := by
  obtain ⟨a, answers, drawn, h⟩ := s.platformCall_cases acquireCall
  simp only [State.initialise, h]
  cases a
  · dsimp only
    obtain ⟨c1, a1, d1, h1⟩ := State.registerEncoder_cases
      { s with
        calls := s.calls ++ [acquireCall], answers := answers, drawn := drawn, channel := acquiredChannel s.channel }
    rcases h1 with h1 | h1 <;> rw [h1]
    · exact .inl ⟨_, _, _, _, _, rfl⟩
    · obtain ⟨c2, a2, d2, h2⟩ := State.enableChannel_cases
        { s with
          calls := c1, answers := a1, drawn := d1
          channel := { acquiredChannel s.channel with encoderRegistered := true } }
      rcases h2 with h2 | h2
      · exact .inl ⟨_, _, _, _, _, h2⟩
      · exact .inr ⟨_, _, _, h2⟩
  · exact .inl ⟨_, _, _, _, _, rfl⟩

end Sys2Proof.Machine
end

