-- ==== Sys2Proof/Laws/Decode.lean ====
section
/-! SUPPORT. The fields of a word put together and taken apart. -/

namespace Sys2Proof

@[simp] theorem opField_headerWord (op : BitVec 8) (arg : BitVec 24) : opField (headerWord op arg) = op := by
  apply BitVec.eq_of_getLsbD_eq
  intro i hi
  simp only [opField, headerWord, BitVec.getLsbD_extractLsb', BitVec.getLsbD_append]
  simp [hi]

@[simp] theorem argField_headerWord (op : BitVec 8) (arg : BitVec 24) : argField (headerWord op arg) = arg := by
  apply BitVec.eq_of_getLsbD_eq
  intro i hi
  simp only [argField, headerWord, BitVec.getLsbD_extractLsb', BitVec.getLsbD_append]
  simp [hi]

/-- A header is its two fields. -/
theorem headerWord_fields (w : Word) : headerWord (opField w) (argField w) = w := by
  apply BitVec.eq_of_getLsbD_eq
  intro i hi
  simp only [opField, argField, headerWord, BitVec.getLsbD_extractLsb', BitVec.getLsbD_append]
  by_cases h : i < 24
  · simp [h]
  · have : i - 24 < 8 := by omega
    simp [h, this, show 24 + (i - 24) = i by omega]

@[simp] theorem byte3_packWord (a b c d : Byte) : byte3 (packWord a b c d) = a := by
  apply BitVec.eq_of_getLsbD_eq
  intro i hi
  simp only [byte3, packWord, BitVec.getLsbD_extractLsb', BitVec.getLsbD_append]
  simp [hi, show ¬ 24 + i < 8 by omega, show ¬ 24 + i - 8 < 8 by omega, show ¬ 24 + i - 8 - 8 < 8 by omega,
    show 24 + i - 8 - 8 - 8 = i by omega]

@[simp] theorem byte2_packWord (a b c d : Byte) : byte2 (packWord a b c d) = b := by
  apply BitVec.eq_of_getLsbD_eq
  intro i hi
  simp only [byte2, packWord, BitVec.getLsbD_extractLsb', BitVec.getLsbD_append]
  simp [hi, show ¬ 16 + i < 8 by omega, show ¬ 16 + i - 8 < 8 by omega, show 16 + i - 8 - 8 = i by omega]

@[simp] theorem byte1_packWord (a b c d : Byte) : byte1 (packWord a b c d) = c := by
  apply BitVec.eq_of_getLsbD_eq
  intro i hi
  simp only [byte1, packWord, BitVec.getLsbD_extractLsb', BitVec.getLsbD_append]
  simp [hi, show ¬ 8 + i < 8 by omega, show 8 + i - 8 = i by omega]

@[simp] theorem byte0_packWord (a b c d : Byte) : byte0 (packWord a b c d) = d := by
  apply BitVec.eq_of_getLsbD_eq
  intro i hi
  simp only [byte0, packWord, BitVec.getLsbD_extractLsb', BitVec.getLsbD_append]
  simp [hi]

/-- A word is its four bytes. -/
theorem packWord_bytes (w : Word) : packWord (byte3 w) (byte2 w) (byte1 w) (byte0 w) = w := by
  apply BitVec.eq_of_getLsbD_eq
  intro i hi
  simp only [byte3, byte2, byte1, byte0, packWord, BitVec.getLsbD_extractLsb', BitVec.getLsbD_append]
  by_cases h0 : i < 8
  · simp [h0]
  · by_cases h1 : i - 8 < 8
    · simp [h0, h1, show 8 + (i - 8) = i by omega]
    · by_cases h2 : i - 8 - 8 < 8
      · simp [h0, h1, h2, show 16 + (i - 8 - 8) = i by omega]
      · simp [h0, h1, h2, show i - 8 - 8 - 8 < 8 by omega, show 24 + (i - 8 - 8 - 8) = i by omega]

/-- The fields as numbers. -/
theorem opField_toNat (w : Word) : (opField w).toNat = w.toNat / 2 ^ 24 := by
  have := w.isLt
  simp only [opField, BitVec.extractLsb'_toNat, Nat.shiftRight_eq_div_pow]
  omega

theorem argField_toNat (w : Word) : (argField w).toNat = w.toNat % 2 ^ 24 := by
  simp only [argField, BitVec.extractLsb'_toNat, Nat.shiftRight_eq_div_pow]
  omega

theorem midField_toNat (w : Word) : (midField w).toNat = w.toNat % 2 ^ 24 / 2 ^ 8 := by
  simp only [midField, BitVec.extractLsb'_toNat, Nat.shiftRight_eq_div_pow]
  omega

theorem byte0_toNat (w : Word) : (byte0 w).toNat = w.toNat % 2 ^ 8 := by
  simp only [byte0, BitVec.extractLsb'_toNat, Nat.shiftRight_eq_div_pow]
  omega

end Sys2Proof
end

