-- ==== Sys2Proof/Laws/Encoder.lean ====
section
/-! SUPPORT. Everything an invocation of the encoder, a PULL, a tick and a COMPLETE can do. -/

namespace Sys2Proof.Machine

theorem Symbol.ofByte_length (v : Byte) : (Symbol.ofByte v).length = 8 := rfl

/-- The three cases of the encoder (R164 to R167). -/
theorem encodePull_cases (buf : Memory) (len written free : Nat) :
    (free < 8 ∧ encodePull buf len written free = ⟨0, [], false⟩) ∨
    (8 ≤ free ∧ written / 8 < len ∧
      encodePull buf len written free = ⟨8, Symbol.ofByte (buf.read (written / 8)), false⟩) ∨
    (8 ≤ free ∧ len ≤ written / 8 ∧ encodePull buf len written free = ⟨1, [Symbol.reset], true⟩) := by
  unfold encodePull cursor
  split
  · exact .inl ⟨‹_›, rfl⟩
  · split
    · exact .inr (.inl ⟨Nat.not_lt.1 ‹_›, ‹_›, rfl⟩)
    · exact .inr (.inr ⟨Nat.not_lt.1 ‹_›, Nat.not_lt.1 ‹_›, rfl⟩)

theorem encodePull_count (buf : Memory) (len written free : Nat) :
    (encodePull buf len written free).count = (encodePull buf len written free).symbols.length := by
  rcases encodePull_cases buf len written free with ⟨-, h⟩ | ⟨-, -, h⟩ | ⟨-, -, h⟩ <;> rw [h] <;> rfl

/-- The state after a PULL whose encoder answered `r`. -/
theorem State.absorbPull_answerPull (s : State) (w f : Nat) (r : PullResponse) :
    (s.answerPull w f).absorbPull r =
      { s with
        ring := s.ring ++ r.symbols
        symbolsWritten := s.symbolsWritten + r.count
        txDone := s.txDone || r.done
        pullResponse := some (encodePull s.pixels s.txLength.val w f) } := rfl

/-- Everything a PULL can do: nothing where it is disabled or has no room; a byte; or RESET. -/
theorem State.pull_cases (s : State) (free : Nat) :
    (s.pullEnabled = false ∧ s.pull free = s) ∨
    (s.pullEnabled = true ∧ min free s.room < 8 ∧ s.pull free = { s with pullResponse := some ⟨0, [], false⟩ }) ∨
    (s.pullEnabled = true ∧ 8 ≤ min free s.room ∧ s.symbolsWritten / 8 < s.txLength.val ∧
      s.pull free =
        { s with
          ring := s.ring ++ Symbol.ofByte (s.pixels.read (s.symbolsWritten / 8))
          symbolsWritten := s.symbolsWritten + 8
          pullResponse := some ⟨8, Symbol.ofByte (s.pixels.read (s.symbolsWritten / 8)), false⟩ }) ∨
    (s.pullEnabled = true ∧ 8 ≤ min free s.room ∧ s.txLength.val ≤ s.symbolsWritten / 8 ∧
      s.pull free =
        { s with
          ring := s.ring ++ [Symbol.reset]
          symbolsWritten := s.symbolsWritten + 1
          txDone := true
          pullResponse := some ⟨1, [Symbol.reset], true⟩ }) := by
  unfold State.pull
  split
  · rename_i hen
    simp only [State.absorbPull_answerPull]
    rcases encodePull_cases s.pixels s.txLength.val s.symbolsWritten (min free s.room) with
      ⟨hf, h⟩ | ⟨hf, hw, h⟩ | ⟨hf, hw, h⟩ <;> rw [h]
    · exact .inr (.inl ⟨hen, hf, by simp⟩)
    · exact .inr (.inr (.inl ⟨hen, hf, hw, by simp⟩))
    · exact .inr (.inr (.inr ⟨hen, hf, hw, by simp⟩))
  · exact .inl ⟨by simpa using ‹¬ s.pullEnabled = true›, rfl⟩

theorem State.complete_cases (s : State) :
    (s.completeEnabled = false ∧ s.complete = s) ∨
    (s.completeEnabled = true ∧ s.complete = { s with txInFlight := false }) := by
  unfold State.complete
  split
  · exact .inr ⟨‹_›, rfl⟩
  · exact .inl ⟨by simpa using ‹¬ s.completeEnabled = true›, rfl⟩

theorem State.passTick_cases (s : State) :
    (∃ p, s.shift = some p ∧ s.passTick = s.driveTick p) ∨ (s.shift = none ∧ s.passTick = s.idleTick) := by
  unfold State.passTick
  split
  · exact .inl ⟨_, ‹_›, rfl⟩
  · exact .inr ⟨‹_›, rfl⟩

/-- Everything a tick can do: nothing where nothing is on its way to the wire; take the next symbol of the frame and drive
its first tick; drive a symbol under way; or pass with the wire low. -/
theorem State.tick_cases (s : State) :
    (s.tickEnabled = false ∧ s.tick = s) ∨
    (s.tickEnabled = true ∧ s.mustShift = true ∧ s.tick = s.shiftNext.passTick) ∨
    (∃ p, s.tickEnabled = true ∧ s.mustShift = false ∧ s.shift = some p ∧ s.tick = s.driveTick p) ∨
    (s.tickEnabled = true ∧ s.mustShift = false ∧ s.shift = none ∧ s.tick = s.idleTick) := by
  unfold State.tick
  by_cases he : s.tickEnabled = true
  · rw [if_pos he]
    by_cases hm : s.mustShift = true
    · rw [if_pos hm]; exact .inr (.inl ⟨he, hm, rfl⟩)
    · rw [if_neg hm]
      have hm' : s.mustShift = false := by simpa using hm
      rcases s.passTick_cases with ⟨p, hp, h⟩ | ⟨hp, h⟩
      · exact .inr (.inr (.inl ⟨p, he, hm', hp, h⟩))
      · exact .inr (.inr (.inr ⟨he, hm', hp, h⟩))
  · rw [if_neg he]; exact .inl ⟨by simpa using he, rfl⟩

end Sys2Proof.Machine
end

