-- ==== Sys2Proof/Laws/PerInstr.lean ====
section
/-! SUPPORT. The family `HeaderLength`: the header alone tells how many words a command has (R110), instruction by
instruction. -/

namespace Sys2Proof.Laws.HeaderLength

/-- The words of a well-formed command are as many as its first word says. -/
def Statement (i : Instr) : Prop :=
  i.wellFormed = true → ∀ h rest, encode i = some (h :: rest) → commandLength h = rest.length + 1

theorem init : Statement .init := by
  intro _ h rest he
  simp only [encode, Option.some.injEq, List.cons.injEq] at he
  obtain ⟨rfl, rfl⟩ := he
  simp [commandLength]

theorem clearAll : Statement .clearAll := by
  intro _ h rest he
  simp only [encode, Option.some.injEq, List.cons.injEq] at he
  obtain ⟨rfl, rfl⟩ := he
  simp [commandLength]

theorem set (index : BitVec 24) (red green blue : Byte) : Statement (.set index red green blue) := by
  intro _ h rest he
  simp only [encode, Option.some.injEq, List.cons.injEq] at he
  obtain ⟨rfl, rfl⟩ := he
  simp [commandLength]

theorem get (index : BitVec 24) : Statement (.get index) := by
  intro _ h rest he
  simp only [encode, Option.some.injEq, List.cons.injEq] at he
  obtain ⟨rfl, rfl⟩ := he
  simp [commandLength]

theorem quant (code : Byte) : Statement (.quant code) := by
  intro _ h rest he
  simp only [encode, Option.some.injEq, List.cons.injEq] at he
  obtain ⟨rfl, rfl⟩ := he
  simp [commandLength]

theorem flush (count : BitVec 24) : Statement (.flush count) := by
  intro _ h rest he
  simp only [encode, Option.some.injEq, List.cons.injEq] at he
  obtain ⟨rfl, rfl⟩ := he
  simp [commandLength]

theorem led (params : List Word) : Statement (.led params) := by
  intro hw h rest he
  simp only [encode, Option.some.injEq, List.cons.injEq] at he
  obtain ⟨rfl, rfl⟩ := he
  have hlt : params.length < 2 ^ 24 := by simpa [Instr.wellFormed] using hw
  have : (BitVec.ofNat 24 params.length).toNat = params.length := by
    rw [BitVec.toNat_ofNat, Nat.mod_eq_of_lt hlt]
  simp only [commandLength, opField_headerWord, argField_headerWord, this]
  exact Nat.add_comm _ _

theorem encPull (symbolsWritten symbolsFree : Nat) : Statement (.encPull symbolsWritten symbolsFree) := by
  intro _ h rest he
  cases he

theorem reserved (header : Word) (operand : Option Word) : Statement (.reserved header operand) := by
  intro hw h rest he
  cases operand with
  | none =>
    simp only [encode, Option.some.injEq, List.cons.injEq] at he
    obtain ⟨rfl, rfl⟩ := he
    simp only [Instr.wellFormed, headerIsReserved, Bool.or_eq_true, Bool.and_eq_true, beq_iff_eq, decide_eq_true_eq] at hw
    simp only [commandLength, opField_toNat]
    split
    · exfalso; omega
    · exfalso; omega
    · rfl
  | some w =>
    simp only [encode, Option.some.injEq, List.cons.injEq] at he
    obtain ⟨rfl, rfl⟩ := he
    simp only [Instr.wellFormed, setOperandIsReserved, Bool.and_eq_true, beq_iff_eq] at hw
    simp only [commandLength, opField_toNat, hw.1]
    rfl

end Sys2Proof.Laws.HeaderLength
end

