-- ==== Sys2Proof/Laws/Step.lean ====
section
/-! SUPPORT. Everything a step can do, and what the availability check of the operations can do. -/

namespace Sys2Proof.Machine

/-- Everything the availability check can do (R182). -/
theorem accept_cases (header : Word) (run : State → State) (s : State) :
    (s.halted = true ∧ accept header run s = .fault .halted) ∨
    (s.halted = false ∧ s.initialized = true ∧ accept header run s = .next (run s)) ∨
    (s.halted = false ∧ s.initialized = false ∧
      accept header run s = .next ((s.emit (.refused header)).respond .error none)) := by
  unfold accept
  by_cases hh : s.halted = true
  · exact .inl ⟨hh, if_pos hh⟩
  · have hh' : s.halted = false := by simpa using hh
    rw [if_neg hh]
    by_cases hi : s.initialized = true
    · exact .inr (.inl ⟨hh', hi, if_pos hi⟩)
    · exact .inr (.inr ⟨hh', by simpa using hi, if_neg hi⟩)

theorem accept_of_ready {s : State} (hh : s.halted = false) (hi : s.initialized = true) (header : Word)
    (run : State → State) : accept header run s = .next (run s) := by
  simp [accept, hh, hi]

/-! ## Each operation of the port where it is available, and where it is not -/

theorem exec_clearAll_of_ready {s : State} (hh : s.halted = false) (hi : s.initialized = true) :
    exec .clearAll s = .next s.clearAll := accept_of_ready hh hi (headerWord 0x02 0) State.clearAll

theorem exec_set_of_ready {s : State} (hh : s.halted = false) (hi : s.initialized = true) (index : BitVec 24)
    (r g b : Byte) : exec (.set index r g b) s = .next ((s.setLed index.toNat ⟨r, g, b⟩).respond .ok none) :=
  accept_of_ready hh hi (headerWord 0x03 index) (fun s => (s.setLed index.toNat ⟨r, g, b⟩).respond .ok none)

theorem exec_get_of_ready {s : State} (hh : s.halted = false) (hi : s.initialized = true) (index : BitVec 24) :
    exec (.get index) s = .next (s.getLed index.toNat) :=
  accept_of_ready hh hi (headerWord 0x04 index) (fun s => s.getLed index.toNat)

theorem exec_flush_of_ready {s : State} (hh : s.halted = false) (hi : s.initialized = true) (count : BitVec 24) :
    exec (.flush count) s = .next (s.flush count.toNat) :=
  accept_of_ready hh hi (headerWord 0x06 count) (fun s => s.flush count.toNat)

theorem exec_led_of_ready {s : State} (hh : s.halted = false) (hi : s.initialized = true) (params : List Word) :
    exec (.led params) s = .next (s.ledCommand params) :=
  accept_of_ready hh hi (headerWord 0x07 (BitVec.ofNat 24 params.length)) (fun s => s.ledCommand params)

theorem exec_init_of_fresh {s : State} (hh : s.halted = false) (hi : s.initialized = false) :
    exec .init s = .next s.initialise := by
  simp [exec, execInit, hh, hi]

/-- Before INIT an operation that needs it is refused (R182). -/
theorem exec_of_fresh {s : State} (hh : s.halted = false) (hi : s.initialized = false) {i : Instr} {h : Word}
    {ws : List Word} (he : encode i = some (h :: ws)) (h1 : i ≠ .init) (h2 : ∀ c, i ≠ .quant c)
    (h3 : ∀ w o, i ≠ .reserved w o) :
    exec i s = .next ((s.emit (.refused h)).respond .error none) := by
  cases i <;> simp only [encode, Option.some.injEq, List.cons.injEq, reduceCtorEq] at he
  case init => exact absurd rfl h1
  case quant c => exact absurd rfl (h2 c)
  case reserved w o => exact absurd rfl (h3 w o)
  all_goals
    obtain ⟨rfl, -⟩ := he
    simp only [exec, execClearAll, execSet, execGet, execFlush, execLed, accept, hh, hi, Bool.false_eq_true, if_false]
    rfl

/-- A halted block takes no step. -/
theorem step_of_halted {s : State} (h : s.halted = true) : step s = .fault .halted := by
  simp [step, h]

/-- A step of a waiting HOST: one look at its wait, after the other agents' turn. -/
theorem step_of_waiting {s : State} {leds : Fin 257} (hh : s.halted = false) (hw : s.host = .waiting leds) :
    step s = .next (s.agentsTurn.awaitDone leds) := by
  simp [step, hh, hostStep, s.agentsTurn_agentsOnly.host, hw]

/-- Everything a step that is taken can do: after the agents' turn the HOST looks at its wait, performs the next command, or
has nothing to do. -/
theorem step_cases {s t : State} (h : step s = .next t) :
    s.halted = false ∧
      ((∃ leds, s.host = .waiting leds ∧ t = s.agentsTurn.awaitDone leds) ∨
        (∃ i rest, s.host = .idle ∧ decode s.cmdWords = .ok (i, rest) ∧
          exec i { s.agentsTurn with cmdWords := rest } = .next t) ∨
        (∃ e, s.host = .idle ∧ decode s.cmdWords = .error e ∧ t = s.agentsTurn)) := by
  have ha := s.agentsTurn_agentsOnly
  unfold step at h
  split at h
  · cases h
  · rename_i hh
    refine ⟨by simpa using hh, ?_⟩
    unfold hostStep at h
    rw [ha.host] at h
    split at h
    · rename_i leds hw
      exact .inl ⟨leds, hw, (Host.Outcome.next.inj h).symm⟩
    · rename_i hidle
      unfold State.takeCommand at h
      rw [ha.cmdWords] at h
      split at h
      · rename_i i s' hcmd
        split at hcmd
        · rename_i i' rest hdec
          simp only [Option.some.injEq, Prod.mk.injEq] at hcmd
          obtain ⟨rfl, rfl⟩ := hcmd
          exact .inr (.inl ⟨_, _, hidle, hdec, h⟩)
        · cases hcmd
      · rename_i hcmd
        split at hcmd
        · cases hcmd
        · rename_i e hdec
          exact .inr (.inr ⟨e, hidle, hdec, (Host.Outcome.next.inj h).symm⟩)

end Sys2Proof.Machine
end

