-- ==== Sys2Proof/Tests/Slice0.lean ====
section
/-! SUPPORT. The author's own tests: each expected value is worked out by hand from the rule, or copied from the vector of
95_test_vectors.md, that its comment names. The witnesses at the end show that the hypotheses of the obligations can be met. -/

namespace Sys2Proof.Tests

open Sys2Proof.Machine

/-! ## Helpers -/

/-- A block after INIT with nothing in flight: `BLOCK_SYMBOLS = 16`, three bytes `B0 00 FF` (the start of P5), one LED in use,
a platform that answers `ok`. -/
def ready : State :=
  { State.reset with
    initialized := true
    usedCount := 1
    pixels := [(0, 0xB0), (2, 0xFF)]
    channel := ⟨true, 0, 10000000, 16, 1, true, true⟩
    answers := [.ok, .ok] }

/-- The same block with a transmission of one LED just issued, and a schedule in which the other agents do nothing. -/
def sending : State :=
  { ready with
    txInFlight := true
    txLength := 3
    turns := [⟨[], 0⟩, ⟨[], 3⟩, ⟨[], 1⟩, ⟨[], 0⟩] }

/-- The next state of an outcome satisfies a check. -/
def nextIs (o : Host.Outcome State Fault Refusal) (p : State → Bool) : Bool :=
  match o with
  | .next t => p t
  | .fault _ => false
  | .refused _ => false

/-- What a state tells the HOST, the buffer, `used_count` and the events. -/
def seen (t : State) : Option Response × Memory × Nat × List Event := (t.response, t.pixels, t.usedCount.val, t.events)

/-! ## WellFormed refuses an ill-formed term for each check -/

/-- R106: `n` fits 24 bits. -/
theorem test_wf_led_too_long : Instr.wellFormed (.led (List.replicate (2 ^ 24) 0)) = false := by
  rw [Instr.wellFormed, List.length_replicate]
  decide
/-- R109: a header that is no reserved word is no reserved command. -/
theorem test_wf_reserved_not_reserved : Instr.wellFormed (.reserved 0x01000000 none) = false := by decide
/-- R106: QUANT's code may be anything. -/
theorem test_wf_quant_header_not_reserved : Instr.wellFormed (.reserved 0x050000FF none) = false := by decide
/-- R109: the operand's bits 31:24 are zero. -/
theorem test_wf_set_operand_not_reserved : Instr.wellFormed (.reserved 0x03000000 (some 0x00010203)) = false := by decide
/-- R109: only SET has a reserved operand word. -/
theorem test_wf_operand_of_get : Instr.wellFormed (.reserved 0x04000000 (some 0x01010203)) = false := by decide
theorem test_wf_reserved_well_formed :
    Instr.wellFormed (.reserved 0x00000000 none) && Instr.wellFormed (.reserved 0xFF000000 none) &&
      Instr.wellFormed (.reserved 0x05000124 none) && Instr.wellFormed (.reserved 0x03000000 (some 0x01010203)) = true := by
  decide

/-! ## Decoding: words written out from 30_encoding.md section 6 and copied from 95_test_vectors.md -/

theorem test_decode_init : decode [0b00000001000000000000000000000000#32] = .ok (.init, []) := rfl
theorem test_decode_clearAll : decode [0b00000010000000000000000000000000#32] = .ok (.clearAll, []) := rfl
/-- 2.1: `SET 2, 0x11, 0x22, 0x33`. -/
theorem test_decode_set : decode [0x03000002, 0x00112233] = .ok (.set 2 0x11 0x22 0x33, []) := rfl
theorem test_decode_set_bits :
    decode [0b00000011000000000000000011111111#32, 0b00000000101010101011101111001100#32] =
      .ok (.set 255 0xAA 0xBB 0xCC, []) := rfl
/-- 2.1: `GET 256`. -/
theorem test_decode_get : decode [0x04000100, 7] = .ok (.get 256, [7]) := rfl
/-- 2.3: `QUANT 0xB7`. -/
theorem test_decode_quant : decode [0b00000101000000000000000010110111#32] = .ok (.quant 0xB7, []) := rfl
/-- 2.5: `FLUSH 16777215`. -/
theorem test_decode_flush : decode [0x06FFFFFF] = .ok (.flush 0xFFFFFF, []) := rfl
/-- 2.6: `+LED=10,999`. -/
theorem test_decode_led : decode [0x07000002, 0x0000000A, 0x000003E7] = .ok (.led [10, 999], []) := rfl
theorem test_decode_led_missing : decode [0x07000002, 0x0000000A] = .error .missingWords := rfl
/-- P4 step 6. -/
theorem test_decode_reserved : decode [0x08000000] = .ok (.reserved 0x08000000 none, []) := rfl
/-- 2.3: bits 23:8 of `arg` nonzero. -/
theorem test_decode_reserved_quant : decode [0x05000124] = .ok (.reserved 0x05000124 none, []) := rfl
/-- 2.1: must-be-zero bits set in the operand word. -/
theorem test_decode_reserved_operand :
    decode [0x03000000, 0x01010203] = .ok (.reserved 0x03000000 (some 0x01010203), []) := rfl
theorem test_encode_set : encode (.set 5 0x11 0x22 0x33) = some [0x03000005, 0x00112233] := by decide
theorem test_encode_led : encode (.led [224, 28, 3]) = some [0x07000003, 0xE0, 0x1C, 0x03] := by decide
/-- R105: most significant byte first. -/
theorem test_decode_bytes : decodeBytes [0x04, 0x00, 0x01, 0x00] = .ok (.get 256, []) := rfl
theorem test_table_word_set : decodeTableWord 64 0x0011223303000005 = some (.set 5 0x11 0x22 0x33) := by decide
theorem test_table_word_led : decodeTableWord 32 0x07000003 = some (.led [0, 0, 0]) := by decide
/-- R102: the source's three examples. -/
theorem test_text_led :
    parseLedText "+LED=10,0,255".toList = some (.led [10, 0, 255]) ∧
      parseLedText "+LED=10,999".toList = some (.led [10, 999]) ∧ parseLedText "+LED".toList = some (.led []) := by decide
theorem test_text_no_command :
    parseLedText "+LED=".toList = none ∧ parseLedText "+LED=1,".toList = none ∧ parseLedText "+LED=-1".toList = none := by
  decide

/-! ## Formats -/

/-- 2.4: the words of the three symbols under R96. -/
theorem test_symbol_words :
    Symbol.zero.toWord = 0x00098003 ∧ Symbol.one.toWord = 0x00038009 ∧ Symbol.reset.toWord = 0x00FA00FA := by decide

/-! ## The pixel buffer (2.1) -/

/-- The last LED, and an index past it. -/
theorem test_set :
    nextIs (exec (.set 255 0xAA 0xBB 0xCC) { ready with pixels := [] }) (fun t =>
      seen t == (some ⟨.ok, none⟩, [(765, 0xBB), (766, 0xAA), (767, 0xCC)], 256, [])) = true ∧
    nextIs (exec (.set 300 1 2 3) { ready with usedCount := 3, pixels := [] }) (fun t =>
      seen t == (some ⟨.ok, none⟩, [], 3, [.logOutOfRange 300])) = true := by decide
theorem test_get :
    nextIs (exec (.get 2) { ready with pixels := [(6, 0x22), (7, 0x11), (8, 0x33)] }) (fun t =>
      t.response == some ⟨.ok, some 0x00221133⟩) = true := by decide
theorem test_get_out_of_range :
    nextIs (exec (.get 256) ready) (fun t => t.response == some ⟨.error, none⟩) = true := by decide
/-- R69: the schedule may put the ENGINE's PULL between the byte writes (here the blue byte first, then a PULL of byte 0). -/
theorem test_set_torn :
    nextIs (exec (.set 0 0xFF 0xFF 0xFF)
        { sending with pixels := [], turns := [⟨[], 2⟩, ⟨[.pull 8], 0⟩, ⟨[], 0⟩, ⟨[], 0⟩] })
      (fun t => t.ring == List.replicate 8 Symbol.zero && t.pixels == [(0, 0xFF), (1, 0xFF), (2, 0xFF)]) = true := by decide
/-- R182: CLEAR_ALL before INIT. -/
theorem test_clearAll_refused :
    nextIs (exec .clearAll State.reset) (fun t =>
      seen t == (some ⟨.error, none⟩, [], 0, [.refused 0x02000000])) = true := by decide
/-- R136: the whole buffer is zero, whatever becomes of the FLUSH. -/
theorem test_clearAll_zeroes : (State.clearAll ready).pixels = [] := by
  obtain ⟨u, n, -, -, h⟩ := State.hostWrites_clear (s := ready) (by decide)
  rw [State.clearAll, (State.flush_frame _ _).pixels, h]
  rfl

/-! ## The quantizer (2.3) -/

theorem test_quant :
    quantData 0x24 = 0x00020200 ∧ quantData 0x0A = 0x00000739 ∧ quantData 0x49 = 0x00070702 ∧
      quantData 0x6D = 0x00191902 ∧ quantData 0xB7 = 0x006A6AFF ∧ quantData 0x92 = 0x00393939 := by decide
/-- R182: accepted before INIT. -/
theorem test_quant_before_init :
    nextIs (exec (.quant 0xFF) State.reset) (fun t => t.response == some ⟨.ok, some 0x00FFFFFF⟩) = true := by decide

/-! ## INIT and FLUSH (2.5, P4, P7) -/

theorem test_init_first_call_fails :
    nextIs (exec .init { State.reset with answers := [.fail] }) (fun t =>
      t.halted && !t.initialized && !t.channel.acquired && t.events == [.hardwareFault .acquireChannel]) = true := by decide
theorem test_init_again :
    nextIs (exec .init ready) (fun t =>
      t.response == some ⟨.error, none⟩ && t.events == [.refused 0x01000000]) = true := by decide
theorem test_flush_clamps :
    nextIs (exec (.flush 5) { ready with usedCount := 3 }) (fun t =>
      t.txLength == 9 && t.txInFlight && t.response == some ⟨.ok, none⟩ &&
        t.calls == [.waitAllDone, .transmit 9]) = true := by decide
theorem test_flush_waits :
    nextIs (exec (.flush 1) sending) (fun t => t.host == .waiting 1 && t.response == none && t.txLength == 3) = true := by
  decide

/-! ## The encoder (S8 to S10, 2.4) and the agents (P5) -/

theorem test_encoder :
    encodePull [(0, 0xB0)] 1 0 8 =
      ⟨8, [.one, .zero, .one, .one, .zero, .zero, .zero, .zero], false⟩ ∧
    encodePull [(0, 0xA5), (1, 0x5A)] 2 13 8 =
      ⟨8, [.zero, .one, .zero, .one, .one, .zero, .one, .zero], false⟩ ∧
    encodePull [(0, 0xB0)] 1 8 8 = ⟨1, [.reset], true⟩ ∧ encodePull [(0, 0xB0)] 1 8 7 = ⟨0, [], false⟩ ∧
    encodePull [] 0 0 8 = ⟨1, [.reset], true⟩ := by decide
theorem test_encPull :
    nextIs (exec (.encPull 0 64) sending) (fun t => (t.pullResponse.map PullResponse.count) == some 8 && t.ring == []) =
      true := by decide
/-- P5 steps 1 and 2: two bytes fill the ring; a third PULL returns nothing. -/
theorem test_pull_fills_the_ring :
    (sending.moves [.pull 16, .pull 8, .pull 0]).ring.length = 16 ∧
      (sending.moves [.pull 16, .pull 8, .pull 0]).symbolsWritten = 16 := by decide
/-- 5: a one is high for 9 ticks and low for 3. -/
theorem test_one_on_the_pin :
    (sending.moves (.pull 8 :: .shift :: List.replicate 12 .tick)).wave = [⟨.low, 3⟩, ⟨.high, 9⟩] := by decide
/-- R197: the first tick after the last symbol of a byte, with an empty ring, is a gap. -/
theorem test_underrun :
    (State.moves { sending with symbolsWritten := 8 } [.tick]).txUnderrun = true := by decide

/-! ## The command handler (2.6) -/

theorem test_led_partial :
    nextIs (exec (.led [10, 999]) { ready with usedCount := 4, pixels := [] }) (fun t =>
      seen t == (some ⟨.error, none⟩, [(0, 0x07), (2, 0x39)], 4, [.outOfRange 1 999]) && !t.txInFlight) = true := by decide
theorem test_led_three :
    nextIs (exec (.led [224, 28, 3]) { ready with usedCount := 4, pixels := [] }) (fun t =>
      seen t == (some ⟨.ok, none⟩, [(1, 0xFF), (3, 0xFF), (8, 0xFF)], 4, []) && t.txLength == 9) = true := by decide

/-! ## Reserved commands, and the step -/

theorem test_reserved :
    nextIs (exec (.reserved 0x05000124 none) ready) (fun t =>
      t.response == some ⟨.error, none⟩ && t.events == [.refused 0x05000124]) = true := by decide
theorem test_reserved_halted : exec (.reserved 0x08000000 none) { ready with halted := true } = .fault .halted := rfl
/-- The step runs the command of the port; the next stays there. -/
theorem test_step_runs_command :
    nextIs (step { ready with cmdWords := [0x04000000, 0x04000001] }) (fun t =>
      t.response == some ⟨.ok, some 0x00B000FF⟩ && t.cmdWords == [0x04000001]) = true := by decide
theorem test_fetch_word_quant :
    nextIs (step (State.reset.withFetchWord 32 0x05000024)) (fun t => t.response == some ⟨.ok, some 0x00020200⟩) = true := by
  decide
theorem test_reset_memory_canonical : State.reset.pixels.wf := by decide

/-! ## Witnesses: for each obligation with hypotheses, a concrete case that meets them together -/

/-- Nothing has run: a fresh block and what the platform will answer. -/
def fresh (answers : List Answer) : State := { State.reset with answers := answers }

/-- A block after INIT as the invariant wants it, with one LED on its way. -/
def running : State :=
  { ready with
    channel := ⟨true, Config.pin, Sys2Proof.resolutionHz, Config.blockSymbols, Config.queueDepth, true, true⟩
    txInFlight := true
    txLength := 3
    turns := [⟨[.tick], 0⟩] }

theorem witness_DecodeOfEncodeIsTheOperation :
    (Instr.led [10, 999]).wellFormed = true ∧ encode (.led [10, 999]) = some [0x07000002, 10, 999] := by decide
theorem witness_DecodedWordsAreTheEncoding : decode [0x06000005, 7] = .ok (.flush 5, [7]) := rfl
theorem witness_ReservedWordsDecodeToReserved :
    ((0 : BitVec 8) = 0) ∧ 8 ≤ (8 : BitVec 8).toNat ∧ 8 ≤ (0xFF : BitVec 8).toNat ∧ (1 : BitVec 24) ≠ 0 ∧
      256 ≤ (256 : BitVec 24).toNat ∧ (1 : Byte) ≠ 0 := by decide
theorem witness_NarrowPortCarriesTheWords : ([1, 2, 3] : List Byte).length < 4 := by decide
theorem witness_SymbolWordRoundTrips :
    (⟨.low, 2 ^ 15 - 1, .high, 0⟩ : Symbol).d0 < 2 ^ 15 ∧ (⟨.low, 2 ^ 15 - 1, .high, 0⟩ : Symbol).d1 < 2 ^ 15 := by decide
theorem witness_TextFormIsTheLedCommand :
    ∃ numbers : List (List (Fin 10)), numbers ≠ [] ∧ (∀ ds ∈ numbers, ds ≠ []) ∧
      ∀ ds ∈ numbers, ds.foldl (fun v d => v * 10 + d.val) 0 < 2 ^ 32 :=
  ⟨[[1, 0], [0], [4, 2, 9, 4, 9, 6, 7, 2, 9, 5]], by decide⟩
/-- QUANT, the encoder's and a reserved command's hypothesis. -/
theorem witness_QuantAnswersTheTables : ready.halted = false ∧ State.reset.halted = false := by decide
theorem witness_QuantizeIsInjectiveAndIncreasing :
    (0 : BitVec 3) < 7 ∧ (0 : BitVec 2) < 3 ∧ quantize 0x24 = quantize 0x24 := by decide
theorem witness_SetStoresGreenRedBlue :
    sending.halted = false ∧ sending.initialized = true ∧ sending.pixels.wf ∧ (255 : BitVec 24).toNat < 256 := by decide
theorem witness_SetRaisesTheHighWaterMark :
    ready.halted = false ∧ ready.initialized = true ∧ ready.pixels.wf ∧ (0 : BitVec 24).toNat < 256 := by decide
theorem witness_SetOutOfRangeIsANoOp :
    ready.halted = false ∧ ready.initialized = true ∧ 256 ≤ (256 : BitVec 24).toNat ∧
      256 ≤ (0xFFFFFF : BitVec 24).toNat := by decide
theorem witness_SetChangesNothingElse :
    (ready.halted = false ∧ ready.initialized = true ∧ ready.pixels.wf ∧ ready.quiet = true) ∧
      sending.quiet = false ∧ (255 : BitVec 24).toNat < 256 := by decide
theorem witness_GetAnswersTheStoredBytes :
    ready.halted = false ∧ ready.initialized = true ∧ (255 : BitVec 24).toNat < 256 ∧ 256 ≤ (256 : BitVec 24).toNat := by
  decide
theorem witness_SetThenGetAnswersGreenRedBlue :
    sending.halted = false ∧ sending.initialized = true ∧ sending.pixels.wf ∧ (0 : BitVec 24).toNat < 256 := by decide
theorem witness_ClearAllZeroesTheBuffer :
    sending.halted = false ∧ sending.initialized = true ∧ sending.pixels.wf := by decide
/-- `DEFAULT_LED_COUNT` and `ZERO_LENGTH_TX` are open: one of the two clauses applies, whatever they are. -/
theorem witness_ClearAllIssuesTheBlackFrame :
    (ready.halted = false ∧ ready.initialized = true ∧ ready.pixels.wf ∧ ready.quiet = true ∧
      ready.answers = .ok :: .ok :: []) ∧
    ((Config.defaultLedCount ≠ 0 ∨ Config.zeroLengthTx = .resetOnly) ∨
      (Config.defaultLedCount = 0 ∧ Config.zeroLengthTx = .fault)) := by
  refine ⟨by decide, ?_⟩
  cases Config.zeroLengthTx with
  | resetOnly => exact .inl (.inr rfl)
  | fault =>
    by_cases h : Config.defaultLedCount = 0
    · exact .inr ⟨h, rfl⟩
    · exact .inl (.inl h)
theorem witness_ClearAllSetsAgreeWithAssignment : ready.pixels.wf ∧ ready.quiet = true := by decide
theorem witness_InitBringsUpTheBlock :
    (fresh [.ok, .ok, .ok, .ok, .ok]).halted = false ∧ (fresh [.ok, .ok, .ok, .ok, .ok]).initialized = false ∧
      (fresh [.ok, .ok, .ok, .ok, .ok]).pixels.wf ∧ (fresh [.ok, .ok, .ok, .ok, .ok]).quiet = true ∧
      (fresh [.ok, .ok, .ok, .ok, .ok]).answers = .ok :: .ok :: .ok :: .ok :: .ok :: [] := by decide
theorem witness_InitHaltsAtTheFirstFailedCall :
    ((fresh [.fail]).halted = false ∧ (fresh [.fail]).initialized = false ∧ (fresh [.fail]).answers = .fail :: []) ∧
      (fresh [.ok, .fail]).answers = .ok :: .fail :: [] ∧
      (fresh [.ok, .ok, .fail]).answers = .ok :: .ok :: .fail :: [] ∧
      ((fresh [.ok, .ok, .ok, .fail]).pixels.wf ∧ (fresh [.ok, .ok, .ok, .fail]).quiet = true ∧
        (fresh [.ok, .ok, .ok, .fail]).answers = .ok :: .ok :: .ok :: .fail :: []) ∧
      ((fresh [.ok, .ok, .ok, .ok, .fail]).pixels.wf ∧ (fresh [.ok, .ok, .ok, .ok, .fail]).quiet = true ∧
        (fresh [.ok, .ok, .ok, .ok, .fail]).answers = .ok :: .ok :: .ok :: .ok :: .fail :: []) := by decide
theorem witness_OperationsOutOfTurnAreRefused :
    (State.reset.halted = false ∧ State.reset.initialized = false ∧ encode (.get 3) = some [0x04000003] ∧
      (Instr.get 3 ≠ .init) ∧ (∀ c, Instr.get 3 ≠ .quant c) ∧ ∀ w o, Instr.get 3 ≠ .reserved w o) ∧
      ready.halted = false ∧ ready.initialized = true :=
  ⟨⟨rfl, rfl, by decide, by decide, by simp, by simp⟩, rfl, rfl⟩
theorem witness_ReservedCommandIsRefused : State.reset.halted = false ∧ sending.halted = false := by decide
theorem witness_FlushIssuesTheClampedCount :
    ready.halted = false ∧ ready.initialized = true ∧ ready.txInFlight = false ∧ ready.answers = .ok :: .ok :: [] ∧
      min (0xFFFFFF : BitVec 24).toNat ready.usedCount.val ≠ 0 := by decide
/-- `ZERO_LENGTH_TX` is open: one of the two clauses applies. -/
theorem witness_FlushOfNoLedsFollowsTheParameter :
    (ready.halted = false ∧ ready.initialized = true ∧ ready.txInFlight = false ∧ ready.answers = .ok :: .ok :: [] ∧
      min (0 : BitVec 24).toNat ready.usedCount.val = 0) ∧
    (Config.zeroLengthTx = .resetOnly ∨ Config.zeroLengthTx = .fault) := by
  refine ⟨by decide, ?_⟩
  cases Config.zeroLengthTx with
  | resetOnly => exact .inl rfl
  | fault => exact .inr rfl
theorem witness_FlushWaitsForTheTransmissionInFlight :
    sending.halted = false ∧ sending.initialized = true ∧ sending.txInFlight = true ∧ sending.answers = .ok :: [.ok] := by
  decide
/-- `ZERO_LENGTH_TX` is open: one of the two parts of the last clause applies. -/
theorem witness_WaitingFlushIssuesAfterCompletion_noLeds :
    (State.halted { ready with host := .waiting 0 } = false ∧ State.host { ready with host := .waiting 0 } = .waiting 0 ∧
      (State.agentsTurn { ready with host := .waiting 0 }).txInFlight = false ∧ ready.answers = .ok :: .ok :: [] ∧
      (0 : Fin 257) = 0) ∧
    (Config.zeroLengthTx = .resetOnly ∨ Config.zeroLengthTx = .fault) := by
  refine ⟨by decide, ?_⟩
  cases Config.zeroLengthTx with
  | resetOnly => exact .inl rfl
  | fault => exact .inr rfl
theorem witness_WaitingFlushIssuesAfterCompletion :
    (State.halted { sending with host := .waiting 1 } = false ∧
      (State.agentsTurn { sending with host := .waiting 1 }).txInFlight = true ∧ sending.answers = .ok :: [.ok]) ∧
    (State.halted { ready with host := .waiting 1 } = false ∧
      (State.agentsTurn { ready with host := .waiting 1 }).txInFlight = false ∧ ready.answers = .ok :: .ok :: [] ∧
      (1 : Fin 257) ≠ 0) := by decide
theorem witness_FlushHaltsWhenACallFails :
    (State.halted { sending with answers := [.fail] } = false ∧ State.initialized { sending with answers := [.fail] } = true ∧
      State.answers { sending with answers := [.fail] } = .fail :: []) ∧
    (State.halted { ready with answers := [.ok, .fail] } = false ∧
      State.initialized { ready with answers := [.ok, .fail] } = true ∧
      State.txInFlight { ready with answers := [.ok, .fail] } = false ∧
      State.answers { ready with answers := [.ok, .fail] } = .ok :: .fail :: []) := by decide
theorem witness_HaltedBlockTakesNoStep : State.halted { sending with halted := true } = true := by decide
theorem witness_EncPullWithoutRoomProducesNothing : sending.halted = false ∧ 7 < 8 := by decide
theorem witness_EncPullSendsAByteMsbFirst :
    sending.halted = false ∧ 8 ≤ 8 ∧ 0 / 8 < sending.txLength.val ∧ 23 / 8 < sending.txLength.val := by decide
theorem witness_EncPullEndsWithReset :
    sending.halted = false ∧ 8 ≤ 8 ∧ sending.txLength.val ≤ 24 / 8 ∧ ready.txLength.val ≤ 0 / 8 := by decide
theorem witness_FrameDoesNotDependOnTheSchedule :
    (pullAll [(0, 0xB0)] 1 [8, 7, 0, 64] 0).2 = true ∧ 1 + 1 ≤ [8, 7, 0, 64].countP (fun f => 8 ≤ f) := by decide
theorem witness_PullNeverOverflowsTheRing : sending.ring.length ≤ sending.channel.blockSymbols := by decide
theorem witness_NoPullAfterDone :
    State.txDone { sending with txDone := true } = true ∧
      nextIs (exec (.set 0 1 2 3) { sending with txDone := true }) (fun t => t.txDone) = true ∧
      nextIs (exec (.flush 1) { ready with txDone := true }) (fun t => !t.txDone) = true := by decide
/-- A transmission about to complete, in the first turn the other agents get. -/
def completing : State :=
  { sending with txDone := true, symbolsWritten := 25, turns := [⟨[.complete], 0⟩, ⟨[], 0⟩, ⟨[], 0⟩, ⟨[], 0⟩] }

theorem witness_TransmissionEndsOnlyByComplete :
    (completing.txInFlight = true ∧ (completing.move .complete).txInFlight = false) ∧
      completing.initialized = true ∧ nextIs (exec (.set 0 1 2 3) completing) (fun t => !t.txInFlight) = true ∧
      nextIs (step completing) (fun t => !t.txInFlight) = true := by decide
theorem witness_SymbolIsDrivenForItsTicks :
    State.shiftEnabled { sending with ring := [.one, .zero] } = true ∧
      State.ring { sending with ring := [.one, .zero] } = .one :: [.zero] ∧ 1 ≤ Symbol.one.d0 ∧ 1 ≤ Symbol.one.d1 ∧
      2 < Symbol.one.d0 + Symbol.one.d1 := by decide
theorem witness_NextSymbolFollowsOnTheNextTick :
    State.halted { sending with ring := [.zero], symbolsWritten := 8 } = false ∧
      State.shift { sending with ring := [.zero], symbolsWritten := 8 } = none ∧
      State.ring { sending with ring := [.zero], symbolsWritten := 8 } = .zero :: [] ∧
      (State.ring { sending with ring := [.zero], symbolsWritten := 8 }).length < 8 ∧ 2 ≤ Symbol.zero.d0 := by decide
theorem witness_UnderrunIsRecordedExactlyInAGap :
    (sending.halted = false ∧ sending.txInFlight = true ∧ sending.txDone = false ∧ sending.ring = [] ∧
      sending.shift = none ∧ 0 < State.symbolsWritten { sending with symbolsWritten := 8 }) ∧
    (State.txUnderrun { sending with symbolsWritten := 8 } = false ∧
      (State.move { sending with symbolsWritten := 8 } .tick).txUnderrun = true) := by decide
theorem witness_EveryTickIsTracedOnce :
    (sending.halted = false ∧ sending.quiet = false ∧ sending.shift = none ∧ sending.ring = []) ∧
      State.shift { sending with shift := some (Shift.start .one) } = some (Shift.start .one) ∧ Move.shift ≠ .tick ∧
      (State.ring { sending with ring := [.zero], symbolsWritten := 8 } = .zero :: [] ∧
        State.mustShift { sending with ring := [.zero], symbolsWritten := 8 } = true) ∧
      (State.ring { sending with ring := [.zero], symbolsWritten := 1 } = .zero :: [] ∧
        State.mustShift { sending with ring := [.zero], symbolsWritten := 1 } = false) := by
  decide
theorem witness_PullReadsTheLiveBuffer :
    sending.halted = false ∧ sending.initialized = true ∧ sending.pixels.wf ∧ (0 : BitVec 24).toNat < 256 ∧
      nextIs (exec (.set 0 1 2 3) sending) (fun t =>
        t.txInFlight && !t.txDone && t.symbolsWritten / 8 == 0 && decide (0 < t.txLength.val) &&
          decide (8 ≤ t.channel.blockSymbols - t.ring.length)) = true := by decide
theorem witness_CompletedTransmissionSentItsFrame :
    State.txInFlight { sending with txLength := 0 } = true ∧ State.txDone { sending with txLength := 0 } = false ∧
      State.symbolsWritten { sending with txLength := 0 } = 0 ∧ State.ring { sending with txLength := 0 } = [] ∧
      State.shift { sending with txLength := 0 } = none ∧
      (State.moves { sending with txLength := 0 }
        (.pull 8 :: .shift :: (List.replicate 500 .tick ++ [.complete]))).txInFlight = false := by decide +kernel
theorem running_inv : running.Inv where
  memory := by decide
  capacity := Nat.zero_le _
  quietWhenIdle := by decide
  initFirst := by decide
  configured := fun _ => rfl
  counted := by decide
  wholeBytes := by decide
  doneCount := by decide
  pinDriven := by decide
  shiftLives := fun p h => by cases h
  ringCanonical := fun x h => by cases h
theorem witness_TransmissionCanAlwaysComplete :
    running.Inv ∧ running.halted = false ∧ running.txInFlight = true := ⟨running_inv, rfl, rfl⟩
theorem witness_LedWithoutParametersChangesNothing : sending.halted = false ∧ sending.initialized = true := by decide
theorem witness_LedStoresEachParameter :
    sending.halted = false ∧ sending.initialized = true ∧ sending.pixels.wf ∧ ([0, 255] : List Word) ≠ [] ∧
      ∀ p ∈ ([0, 255] : List Word), p.toNat ≤ 255 :=
  ⟨rfl, rfl, by decide, by simp, by simp⟩
theorem witness_LedFlushesAsManyLedsAsParameters :
    ready.halted = false ∧ ready.initialized = true ∧ ready.pixels.wf ∧ ready.quiet = true ∧
      ready.answers = .ok :: .ok :: [] ∧ List.replicate 257 (255 : Word) ≠ [] ∧
      ∀ p ∈ List.replicate 257 (255 : Word), p.toNat ≤ 255 := by
  refine ⟨rfl, rfl, by decide, rfl, rfl, fun h => Nat.succ_ne_zero 256 ((List.replicate_eq_nil_iff _).1 h), ?_⟩
  intro p hp
  rw [List.eq_of_mem_replicate hp]
  simp
theorem witness_LedStopsAtARangeError :
    sending.halted = false ∧ sending.initialized = true ∧ sending.pixels.wf ∧
      (∀ p ∈ ([255] : List Word), p.toNat ≤ 255) ∧ 255 < (256 : Word).toNat ∧ ready.quiet = true :=
  ⟨rfl, rfl, by decide, by simp, by simp, rfl⟩
theorem witness_LedAnswersOkIffAllInRange :
    ready.halted = false ∧ ready.initialized = true ∧ ready.pixels.wf ∧ ready.quiet = true ∧
      ready.answers = .ok :: .ok :: [] := by decide
theorem witness_LedKeepsItsColoursWhenTransmitFails :
    State.halted { ready with answers := [.ok, .fail] } = false ∧
      State.initialized { ready with answers := [.ok, .fail] } = true ∧
      (State.pixels { ready with answers := [.ok, .fail] }).wf ∧ State.quiet { ready with answers := [.ok, .fail] } = true ∧
      State.answers { ready with answers := [.ok, .fail] } = .ok :: .fail :: [] ∧ ([255] : List Word) ≠ [] ∧
      ∀ p ∈ ([255] : List Word), p.toNat ≤ 255 :=
  ⟨rfl, rfl, by decide, rfl, rfl, by simp, by simp⟩
theorem witness_StepRunsTheDecodedCommand :
    State.halted { sending with cmdWords := [0x04000002, 1] } = false ∧
      State.host { sending with cmdWords := [0x04000002, 1] } = .idle ∧
      decode (State.cmdWords { sending with cmdWords := [0x04000002, 1] }) = .ok (.get 2, [1]) := ⟨rfl, rfl, rfl⟩
theorem witness_StepKeepsTheInvariant : running.Inv ∧ ∃ t, step running = .next t := ⟨running_inv, _, rfl⟩
theorem witness_UsedCountFallsOnlyOnClear :
    (∃ t, exec (.set 9 1 2 3) sending = .next t) ∧ Instr.set 9 1 2 3 ≠ .clearAll ∧ Instr.set 9 1 2 3 ≠ .init :=
  ⟨⟨_, rfl⟩, by decide, by decide⟩
theorem witness_OnlyFlushingOperationsTransmit :
    (nextIs (exec (.flush 1) ready) (fun t => t.txInFlight) = true ∧ ready.txInFlight = false) ∧
      sending.txInFlight = true := by decide
theorem witness_ConfigurationIsStaticAfterInit : sending.initialized = true ∧ ∃ t, step sending = .next t :=
  ⟨rfl, _, rfl⟩
theorem witness_WaitingFlushHaltsWhenACallFails :
    (State.halted { sending with host := .waiting 1, answers := [.fail] } = false ∧
      State.answers { sending with host := .waiting 1, answers := [.fail] } = .fail :: []) ∧
    (State.host { ready with host := .waiting 0, answers := [.ok, .fail] } = .waiting 0 ∧
      (State.agentsTurn { ready with host := .waiting 0, answers := [.ok, .fail] }).txInFlight = false ∧
      State.answers { ready with host := .waiting 0, answers := [.ok, .fail] } = .ok :: .fail :: []) := by decide
/-- What the last three statements ask of a state, whatever the platform will answer. -/
abbrev opens (s : State) : Prop := s.halted = false ∧ s.initialized = true ∧ s.pixels.wf

/-- A transmission that stays in flight through the writes of a CLEAR_ALL. -/
def staying (answers : List Answer) : State := { sending with turns := List.replicate 768 ⟨[], 0⟩, answers := answers }

/-- One that completes before the first of them. -/
def ending (answers : List Answer) : State :=
  { completing with turns := ⟨[.complete], 0⟩ :: List.replicate 767 ⟨[], 0⟩, answers := answers }

/-- `DEFAULT_LED_COUNT` and `ZERO_LENGTH_TX` are open: of the clauses that look at them the second or the fourth applies. -/
theorem witness_ClearAllMeetsATransmissionInFlight :
    (opens (staying [.ok]) ∧ ((staying [.ok]).hostWrites clearWrites).txInFlight = true ∧
      (staying [.ok]).answers = .ok :: []) ∧
    (opens (ending [.ok, .ok]) ∧ ((ending [.ok, .ok]).hostWrites clearWrites).txInFlight = false ∧
      (ending [.ok, .ok]).answers = .ok :: .ok :: []) ∧
    (opens (staying [.fail]) ∧ (staying [.fail]).answers = .fail :: []) ∧
    (opens (ending [.ok, .fail]) ∧ ((ending [.ok, .fail]).hostWrites clearWrites).txInFlight = false ∧
      (ending [.ok, .fail]).answers = .ok :: .fail :: []) ∧
    ((Config.defaultLedCount ≠ 0 ∨ Config.zeroLengthTx = .resetOnly) ∨
      (Config.defaultLedCount = 0 ∧ Config.zeroLengthTx = .fault)) :=
  ⟨by decide +kernel, by decide +kernel, by decide +kernel, by decide +kernel,
    witness_ClearAllIssuesTheBlackFrame.2⟩
theorem witness_LedMeetsATransmissionInFlight :
    (([0] : List Word) ≠ [] ∧ ∀ p ∈ ([0] : List Word), p.toNat ≤ 255) ∧
    (opens (staying [.ok]) ∧ (State.applyParams [0] 0 (staying [.ok])).2.txInFlight = true ∧
      (staying [.ok]).answers = .ok :: []) ∧
    (opens (ending [.ok, .ok]) ∧ (State.applyParams [0] 0 (ending [.ok, .ok])).2.txInFlight = false ∧
      (ending [.ok, .ok]).answers = .ok :: .ok :: []) ∧
    (opens (staying [.fail]) ∧ (staying [.fail]).answers = .fail :: []) ∧
    (opens (ending [.ok, .fail]) ∧ (State.applyParams [0] 0 (ending [.ok, .fail])).2.txInFlight = false ∧
      (ending [.ok, .fail]).answers = .ok :: .fail :: []) :=
  ⟨by simp, by decide +kernel, by decide +kernel, by decide +kernel, by decide +kernel⟩

end Sys2Proof.Tests
end

section
/-! PROOFS. The pixel buffer (40_pixel_buffer.md): what a stored LED leaves in the buffer, and the store law of SET. -/

namespace Sys2Proof.Machine

/-- R131, first half, of the buffer alone: a stored LED reads back in the order of its channels. -/
theorem memRead_storeLed {m : Memory} (h : m.wf) {i : Nat} (hi : i < maxLeds) (c : Colour) :
    memRead (storeLed m i c) (3 * i) 3 = [c.green, c.red, c.blue] := by
  have hthree : List.range 3 = [0, 1, 2] := rfl
  simp [memRead, hthree, storeLed_read h hi]

/-- R131, second half, of the buffer alone: the other bytes keep their values. -/
theorem storeLed_read_outside {m : Memory} (h : m.wf) {i : Nat} (hi : i < maxLeds) (c : Colour) {a : Nat}
    (ha : a < 3 * i ∨ 3 * i + 2 < a) : (storeLed m i c).read a = m.read a := by
  simp only [storeLed_read h hi, pixelAddr]
  rw [if_neg (by omega), if_neg (by omega), if_neg (by omega)]

/-- A SET in range runs in every state with a canonical buffer, and its buffer is the old one with the LED stored: no move of
the other agents between its writes touches a byte. -/
theorem exec_set_pixels {s : State} (hh : s.halted = false) (hinit : s.initialized = true) (h : s.pixels.wf)
    {index : BitVec 24} (hi : index.toNat < 256) (r g b : Byte) :
    ∃ t, exec (.set index r g b) s = .next t ∧ t.pixels = storeLed s.pixels index.toNat ⟨r, g, b⟩ := by
  obtain ⟨u, -, -, hset⟩ := State.setLed_inRange h hi ⟨r, g, b⟩
  refine ⟨_, exec_set_of_ready hh hinit index r g b, ?_⟩
  rw [State.respond_pixels, hset]

/-- Settles O10: the buffer after the SET is the old one with the LED stored, which reads back as the store law says. -/
theorem setStoresGreenRedBlue : Obligations.SetStoresGreenRedBlue := by
  intro s index r g b hh hinit h hi
  obtain ⟨t, hexec, hpixels⟩ := exec_set_pixels hh hinit h hi r g b
  refine ⟨t, hexec, ?_, fun a ha => ?_⟩
  · rw [hpixels, memRead_storeLed h hi]
  · rw [hpixels, storeLed_read_outside h hi _ ha]

end Sys2Proof.Machine
end

section
/-! PROOFS. The encoder (42_encoder.md): its answer in each of its three cases, and the symbols of a byte, bit 7 first. -/

namespace Sys2Proof.Machine

/-- R164 and R167: too little room is looked at first, whatever the position. -/
theorem encodePull_of_noRoom {free : Nat} (hf : free < 8) (buf : Memory) (len written : Nat) :
    encodePull buf len written free = ⟨0, [], false⟩ :=
  if_pos hf

/-- R165: one whole byte, however much room there is. -/
theorem encodePull_of_inRange {len written free : Nat} (hf : 8 ≤ free) (hw : written / 8 < len) (buf : Memory) :
    encodePull buf len written free = ⟨8, Symbol.ofByte (buf.read (written / 8)), false⟩ :=
  (if_neg (Nat.not_lt.2 hf)).trans (if_pos hw)

/-- R166: the frame's RESET, which needs the same room as a byte. -/
theorem encodePull_of_pastEnd {len written free : Nat} (hf : 8 ≤ free) (hw : len ≤ written / 8) (buf : Memory) :
    encodePull buf len written free = ⟨1, [Symbol.reset], true⟩ :=
  (if_neg (Nat.not_lt.2 hf)).trans (if_neg (Nat.not_lt.2 hw))

/-- R160: ENC_PULL in a running block writes the encoder's answer on the pull interface and nothing else. -/
theorem exec_encPull_of_running {s : State} (hh : s.halted = false) {written free : Nat} {r : PullResponse}
    (hr : encodePull s.pixels s.txLength.val written free = r) :
    exec (.encPull written free) s = .next { s with pullResponse := some r } := by
  have hexec : exec (.encPull written free) s = .next (s.answerPull written free) :=
    if_neg (by simp [hh])
  rw [hexec, State.answerPull, hr]

/-- R174, the mask of one bit: the shifted byte's lowest bit is the bit of that number. -/
theorem shiftRight_and_one_eq_one_iff (v : Byte) (k : Nat) : (v >>> k) &&& 1#8 = 1#8 ↔ v.getLsbD k = true := by
  rw [BitVec.and_one_eq_setWidth_ofBool_getLsbD, BitVec.getLsbD_ushiftRight, Nat.add_zero]
  cases v.getLsbD k <;> decide

/-- R98: the symbols of a byte are those of its bits, counted down from bit 7. -/
theorem Symbol.ofByte_eq_map (v : Byte) :
    Symbol.ofByte v = (List.range 8).map fun j => Symbol.ofBit (v.getLsbD (7 - j)) :=
  rfl

/-- R174: symbol `j` of a byte is chosen by its bit `7 - j`. -/
theorem Symbol.ofByte_getElem? (v : Byte) {j : Nat} (hj : j < 8) :
    (Symbol.ofByte v)[j]? =
      some (if (v >>> (7 - j)) &&& 1#8 = 1#8 then Symbol.one else Symbol.zero) := by
  simp only [shiftRight_and_one_eq_one_iff]
  rw [Symbol.ofByte_eq_map, List.getElem?_map, List.getElem?_range hj]
  rfl

/-- Settles O30: the symbols are `Symbol.ofByte` of the byte at the position, read off bit by bit. -/
theorem encPullSendsAByteMsbFirst : Obligations.EncPullSendsAByteMsbFirst := by
  intro s written free hh hf hw
  exact ⟨Symbol.ofByte (s.pixels.read (written / 8)), Symbol.ofByte_length _, fun _ => Symbol.ofByte_getElem? _,
    exec_encPull_of_running hh (encodePull_of_inRange hf hw _)⟩

/-- Settles O29: the check of the free slots comes first, so the position plays no part. -/
theorem encPullWithoutRoomProducesNothing : Obligations.EncPullWithoutRoomProducesNothing :=
  fun _ _ _ hh hf => exec_encPull_of_running hh (encodePull_of_noRoom hf _ _ _)

/-- Settles O31: at or past the end the encoder's last case answers. -/
theorem encPullEndsWithReset : Obligations.EncPullEndsWithReset :=
  fun _ _ _ hh hf hw => exec_encPull_of_running hh (encodePull_of_pastEnd hf hw _)

end Sys2Proof.Machine
end

section
/-! PROOFS. The transmission driver (43_tx_driver.md) after `tx_done`: no agent and no operation of the HOST asks the
encoder for this transmission again, until an issue clears it. -/

namespace Sys2Proof.Machine

/-- R195, what holds since `s`: the transmission is done, and nothing has been pulled or counted. -/
structure DoneSince (s t : State) : Prop where
  txDone : t.txDone = true
  symbolsWritten : t.symbolsWritten = s.symbolsWritten
  pullResponse : t.pullResponse = s.pullResponse

/-- R188, what an issue leaves: a new transmission in flight, of which nothing has been pulled yet. -/
structure State.JustIssued (t : State) : Prop where
  txDone : t.txDone = false
  symbolsWritten : t.symbolsWritten = 0
  txInFlight : t.txInFlight = true

namespace DoneSince

variable {s t : State}

theorem refl (h : s.txDone = true) : DoneSince s s := ⟨h, rfl, rfl⟩

/-! ## The agents -/

theorem shiftNext (h : DoneSince s t) : DoneSince s t.shiftNext := by
  rcases t.shiftNext_cases with ⟨-, heq⟩ | ⟨_, _, -, -, heq⟩ <;> rw [heq]
  · exact h
  · exact ⟨h.txDone, h.symbolsWritten, h.pullResponse⟩

theorem passTick (h : DoneSince s t) : DoneSince s t.passTick := by
  rcases t.passTick_cases with ⟨_, -, heq⟩ | ⟨-, heq⟩ <;> rw [heq] <;>
    exact ⟨h.txDone, h.symbolsWritten, h.pullResponse⟩

theorem tick (h : DoneSince s t) : DoneSince s t.tick := by
  unfold State.tick
  split_ifs
  · exact h.shiftNext.passTick
  · exact h.passTick
  · exact h

/-- R193: PULL is enabled only while `tx_done` is 0. -/
theorem pull (h : DoneSince s t) (free : Nat) : DoneSince s (t.pull free) := by
  have hdisabled : t.pullEnabled = false := by simp [State.pullEnabled, h.txDone]
  have heq : t.pull free = t := if_neg (by simp [hdisabled])
  rwa [heq]

theorem complete (h : DoneSince s t) : DoneSince s t.complete := by
  rcases t.complete_cases with ⟨-, heq⟩ | ⟨-, heq⟩ <;> rw [heq]
  · exact h
  · exact ⟨h.txDone, h.symbolsWritten, h.pullResponse⟩

theorem move (h : DoneSince s t) (m : Move) : DoneSince s (t.move m) := by
  cases m with
  | pull free => exact h.pull free
  | shift => exact h.shiftNext
  | tick => exact h.tick
  | complete => exact h.complete

theorem moves (h : DoneSince s t) (ms : List Move) : DoneSince s (t.moves ms) :=
  State.moves_induct (fun _ m h => h.move m) h ms

/-! ## The HOST's stores, beside which the agents move -/

theorem takeTurn (h : DoneSince s t) : DoneSince s t.takeTurn.2 := by
  rcases t.takeTurn_cases with ⟨_, _, -, heq⟩ | ⟨-, heq⟩ <;> rw [heq] <;>
    exact ⟨h.txDone, h.symbolsWritten, h.pullResponse⟩

theorem hostWrite (h : DoneSince s t) (w : HostWrite) : DoneSince s (t.hostWrite w) := by
  cases w <;> exact ⟨h.txDone, h.symbolsWritten, h.pullResponse⟩

theorem hostWrites (h : DoneSince s t) (ws : List HostWrite) : DoneSince s (t.hostWrites ws) :=
  State.hostWrites_induct (fun _ h => h.takeTurn) (fun _ m h => h.move m) (fun _ w h => h.hostWrite w) h ws

theorem raise (h : DoneSince s t) (e : Event) : DoneSince s (t.raise e) := by
  cases e <;> exact ⟨h.txDone, h.symbolsWritten, h.pullResponse⟩

theorem respond (h : DoneSince s t) (r : Result) (d : Option Word) : DoneSince s (t.respond r d) :=
  ⟨h.txDone, h.symbolsWritten, h.pullResponse⟩

theorem setLed (h : DoneSince s t) (index : Nat) (c : Colour) : DoneSince s (t.setLed index c) := by
  unfold State.setLed
  split
  · exact h.hostWrites _
  · exact h.raise _

theorem applyParams (h : DoneSince s t) (ps : List Word) (k : Nat) : DoneSince s (State.applyParams ps k t).2 := by
  induction ps generalizing k t with
  | nil => exact h
  | cons p ps ih =>
    unfold State.applyParams
    split
    · exact h
    · exact ih (h.setLed k _) (k + 1)

theorem getLed (h : DoneSince s t) (index : Nat) : DoneSince s (t.getLed index) := by
  unfold State.getLed
  split <;> exact h.respond _ _

/-! ## FLUSH, and the operations that contain it: they keep the transmission done, or issue one -/

theorem takeAnswer (h : DoneSince s t) : DoneSince s t.takeAnswer.2 := by
  rw [t.takeAnswer_eq]
  exact ⟨h.txDone, h.symbolsWritten, h.pullResponse⟩

theorem transmit (h : DoneSince s t) (leds : Fin 257) :
    DoneSince s (t.transmit leds) ∨ (t.transmit leds).JustIssued := by
  have hcall : DoneSince s (t.platformCall (.transmit (bytesOfLeds leds).val)).2 := by
    rw [t.platformCall_eq]
    exact ⟨h.txDone, h.symbolsWritten, h.pullResponse⟩
  rcases t.transmit_cases leds with ⟨-, heq⟩ | ⟨-, heq⟩ <;> rw [heq]
  · exact .inl (hcall.raise (.hardwareFault .transmit))
  · exact .inr ⟨rfl, rfl, rfl⟩

theorem awaitDone (h : DoneSince s t) (leds : Fin 257) :
    DoneSince s (t.awaitDone leds) ∨ (t.awaitDone leds).JustIssued := by
  rcases t.awaitDone_cases leds with ⟨-, heq⟩ | ⟨-, -, heq⟩ | ⟨-, -, heq⟩ <;> rw [heq]
  · exact .inl (h.takeAnswer.raise (.hardwareFault .waitAllDone))
  · exact .inl ⟨h.takeAnswer.txDone, h.takeAnswer.symbolsWritten, h.takeAnswer.pullResponse⟩
  · exact h.takeAnswer.transmit leds

theorem flush (h : DoneSince s t) (count : Nat) : DoneSince s (t.flush count) ∨ (t.flush count).JustIssued :=
  awaitDone (t := t.recordCall .waitAllDone) ⟨h.txDone, h.symbolsWritten, h.pullResponse⟩ _

theorem clearAll (h : DoneSince s t) : DoneSince s t.clearAll ∨ t.clearAll.JustIssued := by
  have hzeroed := h.hostWrites clearWrites
  exact flush (t := (t.hostWrites clearWrites).setUsed Config.defaultLedCount)
    ⟨hzeroed.txDone, hzeroed.symbolsWritten, hzeroed.pullResponse⟩ _

theorem initialise (h : DoneSince s t) : DoneSince s t.initialise ∨ t.initialise.JustIssued := by
  rcases t.initialise_cases with ⟨_, _, _, _, _, heq⟩ | ⟨_, _, _, heq⟩ <;> rw [heq]
  · exact .inl ⟨h.txDone, h.symbolsWritten, h.pullResponse⟩
  · exact clearAll ⟨h.txDone, h.symbolsWritten, h.pullResponse⟩

theorem ledCommand (h : DoneSince s t) (params : List Word) :
    DoneSince s (t.ledCommand params) ∨ (t.ledCommand params).JustIssued := by
  have hstored := h.applyParams params 0
  unfold State.ledCommand
  split
  · exact .inl (h.raise .noInput)
  · dsimp only
    split
    · exact .inl (hstored.raise _)
    · exact hstored.flush _

/-! ## The operations as the port performs them -/

/-- An operation that needs INIT runs, or is refused and keeps the transmission done. -/
theorem accept (h : DoneSince s s) {header : Word} {run : State → State}
    (he : Machine.accept header run s = .next t) : DoneSince s t ∨ t = run s := by
  rcases accept_cases header run s with ⟨-, heq⟩ | ⟨-, -, heq⟩ | ⟨-, -, heq⟩ <;> rw [heq] at he
  · cases he
  · exact .inr (Host.Outcome.next.inj he).symm
  · rw [← Host.Outcome.next.inj he]
    exact .inl (h.raise (.refused header))

/-- An operation that needs INIT and keeps the transmission done when it runs, keeps it done. -/
theorem accept_keeps (h : DoneSince s s) {header : Word} {run : State → State} (hrun : DoneSince s (run s))
    (he : Machine.accept header run s = .next t) : DoneSince s t := by
  rcases h.accept he with hkept | rfl
  · exact hkept
  · exact hrun

/-- An operation that needs INIT and ends in a FLUSH keeps the transmission done, or issues one. -/
theorem accept_issues (h : DoneSince s s) {header : Word} {run : State → State}
    (hrun : DoneSince s (run s) ∨ (run s).JustIssued) (he : Machine.accept header run s = .next t) :
    DoneSince s t ∨ t.JustIssued := by
  rcases h.accept he with hkept | rfl
  · exact .inl hkept
  · exact hrun

theorem execInit (h : DoneSince s s) (he : Machine.execInit s = .next t) : DoneSince s t ∨ t.JustIssued := by
  unfold Machine.execInit at he
  split_ifs at he <;> cases he
  · exact .inl (h.raise _)
  · exact h.initialise

theorem execClearAll (h : DoneSince s s) (he : Machine.execClearAll s = .next t) : DoneSince s t ∨ t.JustIssued :=
  h.accept_issues h.clearAll he

theorem execSet (h : DoneSince s s) {index : BitVec 24} {red green blue : Byte}
    (he : Machine.execSet index red green blue s = .next t) : DoneSince s t :=
  h.accept_keeps ((h.setLed index.toNat ⟨red, green, blue⟩).respond .ok none) he

theorem execGet (h : DoneSince s s) {index : BitVec 24} (he : Machine.execGet index s = .next t) : DoneSince s t :=
  h.accept_keeps (h.getLed index.toNat) he

theorem execQuant (h : DoneSince s s) {code : Byte} (he : Machine.execQuant code s = .next t) : DoneSince s t := by
  unfold Machine.execQuant at he
  split_ifs at he
  cases he
  exact h.respond _ _

theorem execFlush (h : DoneSince s s) {count : BitVec 24} (he : Machine.execFlush count s = .next t) :
    DoneSince s t ∨ t.JustIssued :=
  h.accept_issues (h.flush count.toNat) he

theorem execLed (h : DoneSince s s) {params : List Word} (he : Machine.execLed params s = .next t) :
    DoneSince s t ∨ t.JustIssued :=
  h.accept_issues (h.ledCommand params) he

theorem execReserved (h : DoneSince s s) {header : Word} {operand : Option Word}
    (he : Machine.execReserved header operand s = .next t) : DoneSince s t := by
  unfold Machine.execReserved at he
  split_ifs at he
  cases he
  exact h.raise _

end DoneSince

/-- R160: the encoder asked as an operation writes none of the transmission's registers. -/
theorem execEncPull_registers {s t : State} {written free : Nat} (he : execEncPull written free s = .next t) :
    t.txDone = s.txDone ∧ t.symbolsWritten = s.symbolsWritten := by
  unfold execEncPull at he
  split_ifs at he
  cases he
  exact ⟨rfl, rfl⟩

/-- The operations that contain a FLUSH (R112). -/
def containsFlush (i : Instr) : Prop :=
  i = .init ∨ i = .clearAll ∨ (∃ c, i = .flush c) ∨ ∃ ps, i = .led ps

/-- R195 beside the operation `i`: `tx_done` and the count stay, or a FLUSH in it has issued a transmission. -/
def DoneUnlessIssued (i : Instr) (s t : State) : Prop :=
  (t.txDone = true ∧ t.symbolsWritten = s.symbolsWritten) ∨ (t.JustIssued ∧ containsFlush i)

theorem DoneSince.doneUnlessIssued {s t : State} (h : DoneSince s t) (i : Instr) : DoneUnlessIssued i s t :=
  .inl ⟨h.txDone, h.symbolsWritten⟩

theorem doneUnlessIssued_of_flush {i : Instr} {s t : State} (hi : containsFlush i)
    (h : DoneSince s t ∨ t.JustIssued) : DoneUnlessIssued i s t :=
  h.elim (fun hkept => hkept.doneUnlessIssued i) fun hissued => .inr ⟨hissued, hi⟩

theorem exec_doneUnlessIssued {s t : State} {i : Instr} (hdone : s.txDone = true) (he : exec i s = .next t) :
    DoneUnlessIssued i s t := by
  have h := DoneSince.refl hdone
  cases i with
  | init => exact doneUnlessIssued_of_flush (.inl rfl) (h.execInit he)
  | clearAll => exact doneUnlessIssued_of_flush (.inr (.inl rfl)) (h.execClearAll he)
  | set => exact (h.execSet he).doneUnlessIssued _
  | get => exact (h.execGet he).doneUnlessIssued _
  | quant => exact (h.execQuant he).doneUnlessIssued _
  | flush count => exact doneUnlessIssued_of_flush (.inr (.inr (.inl ⟨count, rfl⟩))) (h.execFlush he)
  | led params => exact doneUnlessIssued_of_flush (.inr (.inr (.inr ⟨params, rfl⟩))) (h.execLed he)
  | encPull =>
    obtain ⟨htxDone, hwritten⟩ := execEncPull_registers he
    exact .inl ⟨htxDone.trans hdone, hwritten⟩
  | reserved => exact (h.execReserved he).doneUnlessIssued _

/-- Settles O35: no move of the agents undoes `DoneSince`, and an operation undoes it only by an issue. -/
theorem noPullAfterDone : Obligations.NoPullAfterDone := by
  refine ⟨fun s ms hdone => ?_, fun s t i hdone he => ?_⟩
  · obtain ⟨htxDone, hwritten, hpull⟩ := (DoneSince.refl hdone).moves ms
    exact ⟨htxDone, hwritten, hpull⟩
  · rcases exec_doneUnlessIssued hdone he with hkept | ⟨⟨htxDone, hwritten, hflight⟩, hcontains⟩
    · exact .inl hkept
    · exact .inr ⟨htxDone, hwritten, hflight, hcontains⟩

end Sys2Proof.Machine
end

section
/-! PROOFS. The command handler (44_command_handler.md): the two errors that end an LED, no parameters and a parameter out
of range. -/

namespace Sys2Proof.Machine

/-- R213: the operation ends at once, its event emitted and ERROR answered. -/
theorem State.raise_outOfRange (s : State) (k : Nat) (p : Word) :
    s.raise (.outOfRange k p) = (s.emit (.outOfRange k p)).respond .error none :=
  rfl

/-- R211: the answer to an empty list, before anything is stored or waited for. -/
theorem State.ledCommand_nil (s : State) : s.ledCommand [] = (s.emit .noInput).respond .error none :=
  rfl

/-- R213, R215: a loop that ended in an error is followed by that error in place of the FLUSH. -/
theorem State.ledCommand_of_loopError {s t : State} {ps : List Word} {e : Event}
    (hloop : State.applyParams ps 0 s = (some e, t)) : s.ledCommand ps = t.raise e := by
  cases ps with
  | nil => simp [State.applyParams] at hloop
  | cons p ps => simp only [State.ledCommand, hloop]

/-- R213, R214: an LED with a parameter out of range keeps what the loop over the valid parameters before it leaves. -/
theorem State.ledCommand_error {ps : List Word} (hp : ∀ p ∈ ps, p.toNat ≤ 255) {q : Word} (hq : 255 < q.toNat)
    (qs : List Word) (s : State) :
    s.ledCommand (ps ++ q :: qs) = (State.applyParams ps 0 s).2.raise (.outOfRange ps.length q) := by
  rw [State.ledCommand_of_loopError (State.applyParams_error hp hq qs 0 s), Nat.zero_add]

/-- Settles O45: an empty list is answered before the loop, the wait and the FLUSH. -/
theorem ledWithoutParametersChangesNothing : Obligations.LedWithoutParametersChangesNothing := by
  intro s hh hinit
  rw [exec_led_of_ready hh hinit, State.ledCommand_nil]
  rfl

/-- Settles O48: what the loop leaves of the valid parameters stands, and the error only emits its event and answers. -/
theorem ledStopsAtARangeError : Obligations.LedStopsAtARangeError := by
  intro s good bad later hh hinit h hgood hbad
  obtain ⟨u, hu, hquiet, hloop⟩ := State.applyParams_valid hgood 0 h (by simp)
  refine ⟨u, hu, hquiet, ?_⟩
  rw [exec_led_of_ready hh hinit, State.ledCommand_error hgood hbad, hloop, State.raise_outOfRange]
  rfl

end Sys2Proof.Machine
end

section
/-! PROOFS. The command words (30_encoding.md sections 6 to 8): the decoder header by header, and that it undoes the
encoder and is undone by it. -/

namespace Sys2Proof

/-! ## The fields of a header as numbers -/

theorem headerWord_toNat_div (op : BitVec 8) (arg : BitVec 24) : (headerWord op arg).toNat / 2 ^ 24 = op.toNat := by
  rw [← opField_toNat, opField_headerWord]

theorem headerWord_toNat_mod (op : BitVec 8) (arg : BitVec 24) : (headerWord op arg).toNat % 2 ^ 24 = arg.toNat := by
  rw [← argField_toNat, argField_headerWord]

/-- A header whose `op` is known is that `op` and its own `arg`. -/
theorem eq_headerWord_of_op {h : Word} {op : BitVec 8} (hop : (opField h).toNat = op.toNat) :
    h = headerWord op (argField h) := by
  rw [← BitVec.eq_of_toNat_eq hop, headerWord_fields]

theorem argField_eq_zero_iff (h : Word) : argField h = 0 ↔ h.toNat % 2 ^ 24 = 0 := by
  rw [← argField_toNat]
  exact BitVec.toNat_inj.symm

theorem midField_eq_zero_iff (h : Word) : midField h = 0 ↔ h.toNat % 2 ^ 24 / 2 ^ 8 = 0 := by
  rw [← midField_toNat]
  exact BitVec.toNat_inj.symm

theorem byte3_eq_zero_iff (w : Word) : byte3 w = 0 ↔ w.toNat / 2 ^ 24 = 0 := by
  rw [← opField_toNat]
  exact BitVec.toNat_inj.symm

/-- The must-be-zero field of a QUANT header is `arg` without its low byte. -/
theorem midField_eq_zero_iff_argField (h : Word) : midField h = 0 ↔ argField h = (byte0 h).setWidth 24 := by
  rw [midField_eq_zero_iff, ← BitVec.toNat_inj, argField_toNat, BitVec.toNat_setWidth, byte0_toNat]
  omega

/-- R109, the reserved headers as a proposition over `op` and `arg`. -/
theorem headerIsReserved_iff (h : Word) :
    headerIsReserved h = true ↔
      h.toNat / 2 ^ 24 = 0 ∨ 8 ≤ h.toNat / 2 ^ 24 ∨ (h.toNat / 2 ^ 24 = 1 ∧ h.toNat % 2 ^ 24 ≠ 0) ∨
        (h.toNat / 2 ^ 24 = 2 ∧ h.toNat % 2 ^ 24 ≠ 0) ∨ (h.toNat / 2 ^ 24 = 5 ∧ h.toNat % 2 ^ 24 / 2 ^ 8 ≠ 0) := by
  simp only [headerIsReserved, Bool.or_eq_true, Bool.and_eq_true, beq_iff_eq, bne_iff_ne, decide_eq_true_eq, or_assoc]

theorem setOperandIsReserved_iff (h w : Word) :
    setOperandIsReserved h w = true ↔ h.toNat / 2 ^ 24 = 3 ∧ w.toNat / 2 ^ 24 ≠ 0 := by
  simp only [setOperandIsReserved, Bool.and_eq_true, beq_iff_eq, bne_iff_ne]

/-! ## The decoder, header by header -/

theorem decode_init (rest : List Word) : decode (headerWord 0x01 0 :: rest) = .ok (.init, rest) := by
  simp [decode]

theorem decode_clearAll (rest : List Word) : decode (headerWord 0x02 0 :: rest) = .ok (.clearAll, rest) := by
  simp [decode]

theorem decode_set (index : BitVec 24) (w : Word) (hw : byte3 w = 0) (rest : List Word) :
    decode (headerWord 0x03 index :: w :: rest) = .ok (.set index (byte2 w) (byte1 w) (byte0 w), rest) := by
  simp [decode, decodeSetOperand, hw]

theorem decode_get (index : BitVec 24) (rest : List Word) :
    decode (headerWord 0x04 index :: rest) = .ok (.get index, rest) := by
  simp [decode]

theorem byte0_quantHeader (code : Byte) : byte0 (headerWord 0x05 (code.setWidth 24)) = code := by
  have harg := headerWord_toNat_mod 0x05 (code.setWidth 24)
  rw [BitVec.toNat_setWidth] at harg
  apply BitVec.eq_of_toNat_eq
  rw [byte0_toNat]
  omega

theorem decode_quant (code : Byte) (rest : List Word) :
    decode (headerWord 0x05 (code.setWidth 24) :: rest) = .ok (.quant code, rest) := by
  have hmid : midField (headerWord 0x05 (code.setWidth 24)) = 0 := by
    rw [midField_eq_zero_iff_argField, byte0_quantHeader, argField_headerWord]
  simp only [decode, opField_headerWord, hmid, byte0_quantHeader]
  rfl

theorem decode_flush (count : BitVec 24) (rest : List Word) :
    decode (headerWord 0x06 count :: rest) = .ok (.flush count, rest) := by
  simp [decode]

/-- R110: the header of LED counts its parameters, so the words after them are left. -/
theorem decode_led {params : List Word} (hlen : params.length < 2 ^ 24) (rest : List Word) :
    decode (headerWord 0x07 (BitVec.ofNat 24 params.length) :: (params ++ rest)) = .ok (.led params, rest) := by
  have hn : (BitVec.ofNat 24 params.length).toNat = params.length := by
    rw [BitVec.toNat_ofNat, Nat.mod_eq_of_lt hlen]
  have htake : decodeLedParams params.length (params ++ rest) = .ok (.led params, rest) := by simp [decodeLedParams]
  simp only [decode, opField_headerWord, argField_headerWord, hn, htake]
  rfl

/-- R109: a reserved header is a command of one word. -/
theorem decode_of_headerIsReserved {h : Word} (hr : headerIsReserved h = true) (rest : List Word) :
    decode (h :: rest) = .ok (.reserved h none, rest) := by
  rw [headerIsReserved_iff] at hr
  simp only [decode, argField_eq_zero_iff, midField_eq_zero_iff, opField_toNat]
  split
  case h_1 | h_2 | h_5 => rw [if_neg (by omega)]
  case h_3 | h_4 | h_6 | h_7 => omega
  case h_8 => rfl

/-- R109: a SET whose operand word is reserved is a command of two words. -/
theorem decode_of_setOperandIsReserved {h w : Word} (hr : setOperandIsReserved h w = true) (rest : List Word) :
    decode (h :: w :: rest) = .ok (.reserved h (some w), rest) := by
  obtain ⟨hop, hz⟩ := (setOperandIsReserved_iff h w).1 hr
  simp only [decode, opField_toNat, hop, decodeSetOperand, byte3_eq_zero_iff, if_neg hz]

/-- Settles O1: operation by operation, the decoder reads its words back. -/
theorem decodeOfEncodeIsTheOperation : Obligations.DecodeOfEncodeIsTheOperation := by
  intro i ws rest hwf he
  cases i with
  | init => cases he; exact decode_init rest
  | clearAll => cases he; exact decode_clearAll rest
  | set index r g b =>
    cases he
    simpa using decode_set index (packWord 0 r g b) (byte3_packWord ..) rest
  | get index => cases he; exact decode_get index rest
  | quant code => cases he; exact decode_quant code rest
  | flush count => cases he; exact decode_flush count rest
  | led params => cases he; exact decode_led (of_decide_eq_true hwf) rest
  | encPull => cases he
  | reserved h operand =>
    cases operand with
    | none => cases he; exact decode_of_headerIsReserved hwf rest
    | some w => cases he; exact decode_of_setOperandIsReserved hwf rest

/-! ## What decodes -/

/-- The words `ws` are exactly the words of a well-formed `i`, then `rest`. -/
def BeginsWith (ws : List Word) (i : Instr) (rest : List Word) : Prop :=
  i.wellFormed = true ∧ ∃ e, encode i = some e ∧ ws = e ++ rest

/-- A header alone that encodes the operation. -/
theorem beginsWith_of_header {h h' : Word} {i : Instr} (hwf : i.wellFormed = true) (he : encode i = some [h'])
    (hh : h = h') (rest : List Word) : BeginsWith (h :: rest) i rest :=
  ⟨hwf, [h'], he, by rw [hh]; rfl⟩

theorem beginsWith_of_headerIsReserved {h : Word} (hr : headerIsReserved h = true) (rest : List Word) :
    BeginsWith (h :: rest) (.reserved h none) rest :=
  beginsWith_of_header (i := .reserved h none) hr rfl rfl rest

theorem beginsWith_of_setOperand {h : Word} {ws rest : List Word} {i : Instr} (hop : (opField h).toNat = 3)
    (hd : decodeSetOperand h ws = .ok (i, rest)) : BeginsWith (h :: ws) i rest := by
  cases ws with
  | nil => cases hd
  | cons w ws =>
    simp only [decodeSetOperand] at hd
    split at hd
    · rename_i hz
      cases hd
      refine ⟨rfl, _, rfl, ?_⟩
      rw [← hz, packWord_bytes, ← eq_headerWord_of_op (op := 3) hop]
      rfl
    · rename_i hz
      cases hd
      rw [byte3_eq_zero_iff] at hz
      rw [opField_toNat] at hop
      exact ⟨(setOperandIsReserved_iff h w).2 ⟨hop, hz⟩, _, rfl, rfl⟩

theorem beginsWith_of_ledParams {h : Word} {ws rest : List Word} {i : Instr} (hop : (opField h).toNat = 7)
    (hd : decodeLedParams (argField h).toNat ws = .ok (i, rest)) : BeginsWith (h :: ws) i rest := by
  simp only [decodeLedParams] at hd
  split at hd
  · cases hd
  · cases hd
    have hlen : (ws.take (argField h).toNat).length = (argField h).toNat := List.length_take_of_le (by omega)
    refine ⟨?_, _, rfl, ?_⟩
    · simpa only [Instr.wellFormed, hlen, decide_eq_true_eq] using (argField h).isLt
    · rw [hlen, BitVec.ofNat_toNat, BitVec.setWidth_eq, ← eq_headerWord_of_op (op := 7) hop]
      simp

/-- A header whose must-be-zero field `z` is checked: it is the operation's header, or reserved. -/
theorem beginsWith_of_ite {h : Word} {ws rest : List Word} {i j : Instr} {z : Prop} [Decidable z]
    (hzero : z → BeginsWith (h :: ws) j ws) (hnonzero : ¬ z → headerIsReserved h = true)
    (hd : (if z then .ok (j, ws) else .ok (.reserved h none, ws) : Except DecodeError (Instr × List Word)) =
      .ok (i, rest)) : BeginsWith (h :: ws) i rest := by
  split at hd <;> cases hd
  · exact hzero ‹_›
  · exact beginsWith_of_headerIsReserved (hnonzero ‹_›) ws

/-- Settles O2: along the decoder's cases on the header's `op`. -/
theorem decodedWordsAreTheEncoding : Obligations.DecodedWordsAreTheEncoding := by
  intro ws rest i hd
  cases ws with
  | nil => cases hd
  | cons h ws =>
    have hreserved := headerIsReserved_iff h
    rw [← opField_toNat] at hreserved
    simp only [decode] at hd
    split at hd
    case h_1 hop =>
      refine beginsWith_of_ite (fun hz => ?_) (fun hz => ?_) hd
      · exact beginsWith_of_header rfl rfl (by rw [eq_headerWord_of_op (op := 1) hop, hz]) ws
      · rw [argField_eq_zero_iff] at hz
        exact hreserved.2 (by omega)
    case h_2 hop =>
      refine beginsWith_of_ite (fun hz => ?_) (fun hz => ?_) hd
      · exact beginsWith_of_header rfl rfl (by rw [eq_headerWord_of_op (op := 2) hop, hz]) ws
      · rw [argField_eq_zero_iff] at hz
        exact hreserved.2 (by omega)
    case h_3 hop => exact beginsWith_of_setOperand hop hd
    case h_4 hop =>
      cases hd
      exact beginsWith_of_header rfl rfl (eq_headerWord_of_op (op := 4) hop) _
    case h_5 hop =>
      refine beginsWith_of_ite (fun hz => ?_) (fun hz => ?_) hd
      · refine beginsWith_of_header rfl rfl ?_ ws
        rw [← (midField_eq_zero_iff_argField h).1 hz, ← eq_headerWord_of_op (op := 5) hop]
      · rw [midField_eq_zero_iff] at hz
        exact hreserved.2 (by omega)
    case h_6 hop =>
      cases hd
      exact beginsWith_of_header rfl rfl (eq_headerWord_of_op (op := 6) hop) _
    case h_7 hop => exact beginsWith_of_ledParams hop hd
    case h_8 h1 h2 h3 h4 h5 h6 h7 =>
      cases hd
      rw [imp_false] at h1 h2 h3 h4 h5 h6 h7
      exact beginsWith_of_headerIsReserved (hreserved.2 (by omega)) _

/-- Settles O4: such words are reserved in the sense of `headerIsReserved` and `setOperandIsReserved`. -/
theorem reservedWordsDecodeToReserved : Obligations.ReservedWordsDecodeToReserved := by
  refine ⟨fun op arg rest hr => ?_, fun arg b z rest hz => ?_⟩
  · refine decode_of_headerIsReserved (h := headerWord op arg) ?_ rest
    rw [headerIsReserved_iff, headerWord_toNat_div, headerWord_toNat_mod]
    rcases hr with rfl | hop | ⟨rfl, harg⟩ | ⟨rfl, harg⟩ | ⟨rfl, harg⟩
    · exact .inl rfl
    · exact .inr (.inl hop)
    · exact .inr (.inr (.inl ⟨rfl, fun h => harg (BitVec.eq_of_toNat_eq h)⟩))
    · exact .inr (.inr (.inr (.inl ⟨rfl, fun h => harg (BitVec.eq_of_toNat_eq h)⟩)))
    · exact .inr (.inr (.inr (.inr ⟨rfl, by omega⟩)))
  · refine decode_of_setOperandIsReserved (h := headerWord 0x03 arg) (w := headerWord z b) ?_ rest
    rw [setOperandIsReserved_iff, headerWord_toNat_div, headerWord_toNat_div]
    exact ⟨rfl, fun h => hz (BitVec.eq_of_toNat_eq h)⟩

/-- Settles O3: the decoder is run on each word. -/
theorem writtenOutWordsDecode : Obligations.WrittenOutWordsDecode :=
  ⟨rfl, rfl, rfl, rfl, rfl, rfl, rfl, rfl⟩

/-- A tail of less than a word holds no whole word. -/
theorem wordsOfBytes_of_lt {tail : List Byte} (h : tail.length < 4) : wordsOfBytes tail = ([], tail) := by
  match tail, h with
  | [], _ => rfl
  | [_], _ => rfl
  | [_, _], _ => rfl
  | [_, _, _], _ => rfl

theorem wordsOfBytes_bytesOfWord (w : Word) (bs : List Byte) :
    wordsOfBytes (bytesOfWord w ++ bs) = (w :: (wordsOfBytes bs).1, (wordsOfBytes bs).2) := by
  simp [bytesOfWord, wordsOfBytes, packWord_bytes]

/-- Settles O5, by induction on the words. -/
theorem narrowPortCarriesTheWords : Obligations.NarrowPortCarriesTheWords := by
  intro ws tail htail
  induction ws with
  | nil => exact wordsOfBytes_of_lt htail
  | cons w ws ih => rw [List.flatMap_cons, List.append_assoc, wordsOfBytes_bytesOfWord, ih]

end Sys2Proof
end

section
/-! PROOFS. The symbol word and the text form (30_encoding.md sections 3, 5 and 9). -/

namespace Sys2Proof.Machine

/-! ## Format `SYMW` (R96) -/

theorem Level.ofBit_bit (l : Level) : Level.ofBit l.bit = l := by
  cases l <;> rfl

/-! Each field, cut out of the word at its place, is the symbol's. -/

theorem Symbol.toWord_d0 (s : Symbol) : s.toWord.extractLsb' 0 15 = BitVec.ofNat 15 s.d0 :=
  BitVec.extractLsb'_append_eq_right

theorem Symbol.toWord_l0 (s : Symbol) : s.toWord.extractLsb' 15 1 = s.l0.bit :=
  (BitVec.extractLsb'_append_eq_of_le (Nat.le_refl 15)).trans BitVec.extractLsb'_append_eq_right

theorem Symbol.toWord_d1 (s : Symbol) : s.toWord.extractLsb' 16 15 = BitVec.ofNat 15 s.d1 :=
  (BitVec.extractLsb'_append_eq_of_le (show 15 ≤ 16 by omega)).trans
    ((BitVec.extractLsb'_append_eq_of_le (Nat.le_refl 1)).trans BitVec.extractLsb'_append_eq_right)

theorem Symbol.toWord_l1 (s : Symbol) : s.toWord.extractLsb' 31 1 = s.l1.bit :=
  (BitVec.extractLsb'_append_eq_of_le (show 15 ≤ 31 by omega)).trans
    ((BitVec.extractLsb'_append_eq_of_le (show 1 ≤ 16 by omega)).trans BitVec.extractLsb'_append_eq_left)

/-- Settles O6: each field of the word is the field of the symbol; a duration must fit its 15 bits. -/
theorem symbolWordRoundTrips : Obligations.SymbolWordRoundTrips := by
  refine ⟨fun s h0 h1 => ?_, rfl, rfl, rfl⟩
  simp only [Symbol.ofWord, Symbol.toWord_d0, Symbol.toWord_l0, Symbol.toWord_d1, Symbol.toWord_l1, Level.ofBit_bit,
    BitVec.toNat_ofNat, Nat.mod_eq_of_lt h0, Nat.mod_eq_of_lt h1]

end Sys2Proof.Machine

namespace Sys2Proof

/-! ## The text form (R102, R111) -/

/-- The character of a decimal digit. -/
def digitChar (d : Fin 10) : Char := Char.ofNat (48 + d.val)

theorem digitChar_ne_comma (d : Fin 10) : digitChar d ≠ ',' := by
  revert d; decide

theorem digitValue_digitChar (d : Fin 10) : digitValue (digitChar d) = some d.val := by
  revert d; decide

/-- The value of a number whose digits are `ds`, read on from the value `v`. -/
def readDigits (v : Nat) (ds : List (Fin 10)) : Nat := ds.foldl (fun v d => v * 10 + d.val) v

/-- A digit is read into the number. -/
theorem parseParams_digit (d : Fin 10) (cs : List Char) (acc : Option Nat) :
    parseParams (digitChar d :: cs) acc = parseParams cs (some (acc.getD 0 * 10 + d.val)) := by
  simp only [parseParams, if_neg (digitChar_ne_comma d), digitValue_digitChar]

theorem parseParams_digits (ds : List (Fin 10)) (cs : List Char) (v : Nat) :
    parseParams (ds.map digitChar ++ cs) (some v) = parseParams cs (some (readDigits v ds)) := by
  induction ds generalizing v with
  | nil => rfl
  | cons d ds ih => rw [List.map_cons, List.cons_append, parseParams_digit, Option.getD_some, ih]; rfl

/-- R102: a number has a first digit; before it the value counts as 0. -/
theorem parseParams_number {ds : List (Fin 10)} (hne : ds ≠ []) (cs : List Char) :
    parseParams (ds.map digitChar ++ cs) none = parseParams cs (some (readDigits 0 ds)) := by
  cases ds with
  | nil => exact absurd rfl hne
  | cons d ds =>
    rw [List.map_cons, List.cons_append, parseParams_digit, Option.getD_none, parseParams_digits]
    rfl

theorem parseParams_end {v : Nat} (hv : v < 2 ^ 32) : parseParams [] (some v) = some [BitVec.ofNat 32 v] :=
  if_pos hv

theorem parseParams_comma {v : Nat} (hv : v < 2 ^ 32) (cs : List Char) :
    parseParams (',' :: cs) (some v) = (parseParams cs none).map (BitVec.ofNat 32 v :: ·) := by
  simp only [parseParams, if_true, if_pos hv]

/-- R102: numbers with commas between them are read in order. -/
theorem parseParams_numbers {ns : List (List (Fin 10))} (hne : ns ≠ []) (hdigits : ∀ ds ∈ ns, ds ≠ [])
    (hfit : ∀ ds ∈ ns, readDigits 0 ds < 2 ^ 32) :
    parseParams ([','].intercalate (ns.map (List.map digitChar))) none =
      some (ns.map fun ds => BitVec.ofNat 32 (readDigits 0 ds)) := by
  induction ns with
  | nil => exact absurd rfl hne
  | cons ds ns ih =>
    have hds := hdigits ds List.mem_cons_self
    have hv := hfit ds List.mem_cons_self
    cases ns with
    | nil =>
      have hlast := parseParams_number hds []
      rw [List.append_nil, parseParams_end hv] at hlast
      simpa using hlast
    | cons ds' ns =>
      have hrest := ih (by simp) (fun d hd => hdigits d (List.mem_cons_of_mem _ hd))
        (fun d hd => hfit d (List.mem_cons_of_mem _ hd))
      rw [List.map_cons, List.map_cons, List.intercalate_cons_cons, List.append_assoc, parseParams_number hds,
        List.singleton_append, parseParams_comma hv, ← List.map_cons, hrest]
      rfl

/-- Settles O7: after the opening of the line the numbers are read in order. -/
theorem textFormIsTheLedCommand : Obligations.TextFormIsTheLedCommand := by
  refine ⟨rfl, fun ns hne hdigits hfit => ?_⟩
  exact congrArg (Option.map Instr.led) (parseParams_numbers hne hdigits hfit)

end Sys2Proof

end

section
/-! PROOFS. The quantizer (41_quantizer.md): its tables, its index fields, and that no two codes share a triple. -/

namespace Sys2Proof.Machine

theorem lut3_eq_table (i : BitVec 3) : ([0, 2, 7, 25, 57, 106, 171, 255] : List Byte)[i.toNat]? = some (lut3 i) := by
  revert i; decide

theorem lut2_eq_table (i : BitVec 2) : ([0, 2, 57, 255] : List Byte)[i.toNat]? = some (lut2 i) := by
  revert i; decide

/-! The shift and mask of R92 are the index fields. -/

theorem redIndex_toNat (code : Byte) : ((code >>> 5) &&& 7).toNat = (redIndex code).toNat := by
  simp [redIndex, BitVec.extractLsb'_toNat, Nat.and_two_pow_sub_one_eq_mod _ 3]

theorem greenIndex_toNat (code : Byte) : ((code >>> 2) &&& 7).toNat = (greenIndex code).toNat := by
  simp [greenIndex, BitVec.extractLsb'_toNat, Nat.and_two_pow_sub_one_eq_mod _ 3]

theorem blueIndex_toNat (code : Byte) : (code &&& 3).toNat = (blueIndex code).toNat := by
  simp [blueIndex, BitVec.extractLsb'_toNat, Nat.and_two_pow_sub_one_eq_mod _ 2]

/-- Settles O8: the tables at the three indices are the quantizer's components. -/
theorem quantAnswersTheTables : Obligations.QuantAnswersTheTables := by
  intro code s hh
  refine ⟨(quantize code).red, (quantize code).green, (quantize code).blue, ?_, ?_, ?_, ?_⟩
  · rw [redIndex_toNat]; exact lut3_eq_table _
  · rw [greenIndex_toNat]; exact lut3_eq_table _
  · rw [blueIndex_toNat]; exact lut2_eq_table _
  · exact if_neg (by simp [hh])

theorem lut3_strictMono : ∀ i j : BitVec 3, i < j → lut3 i < lut3 j := by decide

theorem lut2_strictMono : ∀ i j : BitVec 2, i < j → lut2 i < lut2 j := by decide

/-- A table that increases takes no value twice. -/
theorem injective_of_increasing {v w : Nat} {f : BitVec v → BitVec w} (hf : ∀ i j, i < j → f i < f j) :
    Function.Injective f := by
  intro i j h
  rcases Nat.lt_trichotomy i.toNat j.toNat with hlt | heq | hgt
  · exact absurd (h ▸ hf i j hlt) (BitVec.lt_irrefl _)
  · exact BitVec.eq_of_toNat_eq heq
  · exact absurd (h ▸ hf j i hgt) (BitVec.lt_irrefl _)

/-- A colour code is its three index fields (R92). -/
theorem code_eq_fields (code : Byte) : code = redIndex code ++ greenIndex code ++ blueIndex code := by
  rw [redIndex, greenIndex, BitVec.extractLsb'_append_extractLsb'_eq_extractLsb' (show 5 = 2 + 3 from rfl), blueIndex,
    BitVec.extractLsb'_append_extractLsb'_eq_extractLsb' (show 2 = 0 + 2 from rfl)]
  exact (BitVec.extractLsb'_eq_self).symm

/-- Settles O9: the tables are injective because they increase, and the three indices make up the code. -/
theorem quantizeIsInjectiveAndIncreasing : Obligations.QuantizeIsInjectiveAndIncreasing := by
  refine ⟨rfl, rfl, lut3_strictMono, lut2_strictMono, fun c d h => ?_⟩
  simp only [quantize, Colour.mk.injEq] at h
  obtain ⟨hred, hgreen, hblue⟩ := h
  rw [code_eq_fields c, code_eq_fields d, injective_of_increasing lut3_strictMono hred,
    injective_of_increasing lut3_strictMono hgreen, injective_of_increasing lut2_strictMono hblue]

end Sys2Proof.Machine
end

section
/-! PROOFS. Frames (30_encoding.md section 4, 42_encoder.md): what of a frame is still to be sent from a byte on, that
no schedule of free slots changes what the encoder returns, and the counts of a frame of LEDs. -/

namespace Sys2Proof.Machine

/-! ## The rest of a frame -/

/-- What of the frame of `len` bytes is left when byte `k` is the next to send (R27, R100). -/
def frameFrom (m : Memory) (len k : Nat) : List Symbol :=
  ((List.range' k (len - k)).flatMap fun a => Symbol.ofByte (m.read a)) ++ [Symbol.reset]

theorem frameFrom_zero (m : Memory) (len : Nat) : frameFrom m len 0 = frameOfBytes m len := by
  rw [frameFrom, frameOfBytes, Nat.sub_zero, List.range_eq_range']

theorem frameFrom_of_lt {len k : Nat} (hk : k < len) (m : Memory) :
    frameFrom m len k = Symbol.ofByte (m.read k) ++ frameFrom m len (k + 1) := by
  obtain ⟨n, hn⟩ : ∃ n, len - k = n + 1 := ⟨len - k - 1, by omega⟩
  rw [frameFrom, frameFrom, hn, show len - (k + 1) = n by omega, List.range'_succ, List.flatMap_cons, List.append_assoc]

theorem frameFrom_self (m : Memory) (len : Nat) : frameFrom m len len = [Symbol.reset] := by
  simp [frameFrom]

/-! ## Every schedule of free slots (R171, R172) -/

theorem pullAll_of_noRoom {free : Nat} (hf : free < 8) (buf : Memory) (len : Nat) (frees : List Nat) (written : Nat) :
    pullAll buf len (free :: frees) written = pullAll buf len frees written := by
  simp [pullAll, encodePull_of_noRoom hf]

theorem pullAll_of_inRange {len k free : Nat} (hf : 8 ≤ free) (hk : k < len) (buf : Memory) (frees : List Nat) :
    pullAll buf len (free :: frees) (8 * k) =
      (Symbol.ofByte (buf.read k) ++ (pullAll buf len frees (8 * (k + 1))).1,
        (pullAll buf len frees (8 * (k + 1))).2) := by
  have hdiv : 8 * k / 8 = k := Nat.mul_div_cancel_left k (by omega)
  have henc := encodePull_of_inRange (len := len) (written := 8 * k) hf (by omega) buf
  rw [hdiv] at henc
  simp [pullAll, henc, Nat.mul_succ]

theorem pullAll_of_pastEnd {len free : Nat} (hf : 8 ≤ free) (buf : Memory) (frees : List Nat) :
    pullAll buf len (free :: frees) (8 * len) = ([Symbol.reset], true) := by
  simp [pullAll, encodePull_of_pastEnd (len := len) (written := 8 * len) hf (by omega)]

/-- From byte `k` on: the symbols are a beginning of the rest of the frame, the whole of it exactly after one
productive pull for each byte left and one for RESET. -/
theorem pullAll_spec (buf : Memory) {len k : Nat} (hk : k ≤ len) (frees : List Nat) :
    (pullAll buf len frees (8 * k)).1 <+: frameFrom buf len k ∧
    ((pullAll buf len frees (8 * k)).2 = true ↔ len - k + 1 ≤ frees.countP (fun f => 8 ≤ f)) ∧
    ((pullAll buf len frees (8 * k)).2 = true → (pullAll buf len frees (8 * k)).1 = frameFrom buf len k) := by
  induction frees generalizing k with
  | nil => simp [pullAll]
  | cons free frees ih =>
    by_cases hf : 8 ≤ free
    · rw [List.countP_cons_of_pos (by simpa using hf)]
      rcases Nat.lt_or_eq_of_le hk with hlt | rfl
      · obtain ⟨hbegin, hdone, hwhole⟩ := ih (k := k + 1) hlt
        rw [pullAll_of_inRange hf hlt, frameFrom_of_lt hlt]
        refine ⟨(List.prefix_append_right_inj _).2 hbegin, hdone.trans (by omega), fun h => ?_⟩
        rw [hwhole h]
      · rw [pullAll_of_pastEnd hf, frameFrom_self]
        exact ⟨List.prefix_rfl, by simp, fun _ => rfl⟩
    · rw [pullAll_of_noRoom (by omega), List.countP_cons_of_neg (by simpa using hf)]
      exact ih hk

/-- Settles O32: the schedule read from byte 0, whose rest is the whole frame. -/
theorem frameDoesNotDependOnTheSchedule : Obligations.FrameDoesNotDependOnTheSchedule := by
  intro buf len frees
  have h := pullAll_spec buf (Nat.zero_le len) frees
  rwa [frameFrom_zero] at h

/-! ## Frames of LEDs -/

theorem Symbol.ofBit_ticks (b : Bool) : (Symbol.ofBit b).ticks = 12 := by
  cases b <;> rfl

theorem ticksOf_append (l l' : List Symbol) : ticksOf (l ++ l') = ticksOf l + ticksOf l' := by
  simp [ticksOf]

theorem Symbol.ofByte_ticks (v : Byte) : ticksOf (Symbol.ofByte v) = 96 := by
  simp [ticksOf, Symbol.ofByte, Symbol.ofBit_ticks]

theorem ledSymbols_length (m : Memory) (i : Nat) : (ledSymbols m i).length = 24 := rfl

theorem ledSymbols_ticks (m : Memory) (i : Nat) : ticksOf (ledSymbols m i) = 288 := by
  simp only [ledSymbols, ticksOf_append, Symbol.ofByte_ticks]

/-- LED by LED is byte by byte: LED `n` is bytes `3n` to `3n + 2`. -/
theorem flatMap_ledSymbols (m : Memory) (n : Nat) :
    (List.range n).flatMap (ledSymbols m) = (List.range (3 * n)).flatMap fun a => Symbol.ofByte (m.read a) := by
  induction n with
  | zero => rfl
  | succ n ih =>
    rw [List.range_succ, List.flatMap_append, ih, Nat.mul_succ, List.range_succ, List.range_succ, List.range_succ]
    simp [ledSymbols]

theorem flatMap_ledSymbols_length (m : Memory) (n : Nat) : ((List.range n).flatMap (ledSymbols m)).length = 24 * n := by
  simp [List.length_flatMap, ledSymbols_length, Nat.mul_comm]

theorem flatMap_ledSymbols_ticks (m : Memory) (n : Nat) :
    ticksOf ((List.range n).flatMap (ledSymbols m)) = 288 * n := by
  induction n with
  | zero => rfl
  | succ n ih => simp [List.range_succ, ticksOf_append, ih, ledSymbols_ticks, Nat.mul_succ]

/-- Settles O33: the LEDs' part by induction on their number, then RESET. -/
theorem frameOfLedsIsTheFrameOfItsBytes : Obligations.FrameOfLedsIsTheFrameOfItsBytes := by
  intro m n
  refine ⟨?_, ?_, ?_⟩
  · rw [frameOfLeds, frameOfBytes, flatMap_ledSymbols]
  · rw [frameOfLeds, List.length_append, flatMap_ledSymbols_length]
    rfl
  · rw [frameOfLeds, ticksOf_append, flatMap_ledSymbols_ticks]
    rfl

end Sys2Proof.Machine
end

section
/-! PROOFS. The hardware agents (43_tx_driver.md): the ring between encoder and wire, the ticks of the serializer, and
what their steps record. -/

namespace Sys2Proof.Machine

/-! ## The flags as propositions (R193, R198) -/

theorem State.pullEnabled_iff (s : State) :
    s.pullEnabled = true ↔ s.txInFlight = true ∧ s.txDone = false ∧ s.halted = false := by
  simp only [State.pullEnabled, Bool.and_eq_true, Bool.not_eq_true', and_assoc]

theorem State.completeEnabled_iff (s : State) :
    s.completeEnabled = true ↔
      s.txInFlight = true ∧ s.txDone = true ∧ s.ring = [] ∧ s.shift = none ∧ s.halted = false := by
  simp only [State.completeEnabled, Bool.and_eq_true, Bool.not_eq_true', List.isEmpty_iff, Option.isNone_iff_eq_none,
    and_assoc]

theorem State.quiet_iff (s : State) : s.quiet = true ↔ s.txInFlight = false ∧ s.ring = [] ∧ s.shift = none := by
  simp only [State.quiet, Bool.and_eq_true, Bool.not_eq_true', List.isEmpty_iff, Option.isNone_iff_eq_none, and_assoc]

/-! ## The ring (R29, R67) -/

/-- What the agents did since `s` to the way from the encoder to the wire: some symbols were pushed and counted, and
everything is still there in order. -/
def PushedSince (s t : State) : Prop :=
  ∃ pushed, t.wire ++ t.ring = s.wire ++ s.ring ++ pushed ∧ t.symbolsWritten = s.symbolsWritten + pushed.length

theorem PushedSince.refl (s : State) : PushedSince s s := ⟨[], by simp⟩

theorem PushedSince.trans {s t u : State} (h : PushedSince s t) (k : PushedSince t u) : PushedSince s u := by
  obtain ⟨p, hp, hpc⟩ := h
  obtain ⟨q, hq, hqc⟩ := k
  exact ⟨p ++ q, by rw [hq, hp, List.append_assoc], by rw [hqc, hpc, List.length_append, Nat.add_assoc]⟩

/-- Where symbols only move from the ring to the wire, none were pushed. -/
theorem PushedSince.of_nothing {s t : State} (h : t.wire ++ t.ring = s.wire ++ s.ring)
    (hc : t.symbolsWritten = s.symbolsWritten) : PushedSince s t :=
  ⟨[], by simp [h], by simp [hc]⟩

/-- A PULL appends what it pushes at the end of the ring, counts it, and leaves the wire. -/
theorem State.pull_pushes (s : State) (free : Nat) :
    ∃ pushed, (s.pull free).ring = s.ring ++ pushed ∧ (s.pull free).symbolsWritten = s.symbolsWritten + pushed.length ∧
      (s.pull free).wire = s.wire ∧ pushed.length ∈ [0, 1, 8] ∧ (pushed = [] ∨ 8 ≤ s.room) := by
  rcases s.pull_cases free with ⟨-, h⟩ | ⟨-, -, h⟩ | ⟨-, hroom, -, h⟩ | ⟨-, hroom, -, h⟩ <;> rw [h]
  · exact ⟨[], by simp⟩
  · exact ⟨[], by simp⟩
  · exact ⟨Symbol.ofByte _, rfl, rfl, rfl, by simp [Symbol.ofByte_length], .inr (by omega)⟩
  · exact ⟨[Symbol.reset], rfl, rfl, rfl, by simp, .inr (by omega)⟩

/-- Settles O34: whatever is pushed fits the room that was asked for. -/
theorem pullNeverOverflowsTheRing : Obligations.PullNeverOverflowsTheRing := by
  intro s free hcap
  obtain ⟨pushed, hring, hcount, -, hlen, hroom⟩ := s.pull_pushes free
  refine ⟨pushed, hring, hlen, ?_, hcount⟩
  rw [hring, List.length_append]
  simp only [List.mem_cons, List.not_mem_nil, or_false] at hlen
  rcases hroom with rfl | hroom
  · exact hcap
  · rw [State.room] at hroom
    omega

theorem State.shiftNext_pushedSince (s : State) : PushedSince s s.shiftNext := by
  rcases s.shiftNext_cases with ⟨-, h⟩ | ⟨sym, rest, -, hring, h⟩ <;> rw [h]
  · exact .refl s
  · exact .of_nothing (by simp [hring]) rfl

theorem State.passTick_pushedSince (s : State) : PushedSince s s.passTick := by
  rcases s.passTick_cases with ⟨p, -, h⟩ | ⟨-, h⟩ <;> rw [h] <;> exact .of_nothing rfl rfl

theorem State.tick_pushedSince (s : State) : PushedSince s s.tick := by
  unfold State.tick
  split_ifs
  · exact s.shiftNext_pushedSince.trans (State.passTick_pushedSince _)
  · exact s.passTick_pushedSince
  · exact .refl s

theorem State.complete_pushedSince (s : State) : PushedSince s s.complete := by
  rcases s.complete_cases with ⟨-, h⟩ | ⟨-, h⟩ <;> rw [h] <;> exact .of_nothing rfl rfl

theorem State.move_pushedSince (s : State) (m : Move) : PushedSince s (s.move m) := by
  cases m with
  | pull free =>
    obtain ⟨pushed, hring, hcount, hwire, -⟩ := s.pull_pushes free
    exact ⟨pushed, by simp [State.move, hring, hwire], hcount⟩
  | shift => exact s.shiftNext_pushedSince
  | tick => exact s.tick_pushedSince
  | complete => exact s.complete_pushedSince

/-- Settles O36, by induction over the schedule. -/
theorem ringIsFirstInFirstOut : Obligations.RingIsFirstInFirstOut :=
  fun s ms => State.moves_induct (P := PushedSince s) (fun _ m h => h.trans (State.move_pushedSince _ m)) (.refl s) ms

/-! ## One tick of the serializer, case by case (R30, R196, R197) -/

/-- A symbol under way is driven on; the ring is not looked at. -/
theorem State.tick_of_driving {s : State} {p : Shift} (hh : s.halted = false) (hp : s.shift = some p) :
    s.tick = s.driveTick p := by
  simp [State.tick, State.tickEnabled, State.quiet, State.mustShift, State.shiftEnabled, State.passTick, hh, hp]

/-- Before the frame's first symbol the serializer may idle. -/
theorem State.tick_of_notYet {s : State} (hh : s.halted = false) (hq : s.quiet = false) (hs : s.shift = none)
    (hm : s.mustShift = false) : s.tick = s.idleTick := by
  simp [State.tick, State.tickEnabled, State.passTick, hh, hq, hs, hm]

/-- With an idle serializer and an empty ring the wire is low. -/
theorem State.tick_of_empty {s : State} (hh : s.halted = false) (hq : s.quiet = false) (hr : s.ring = [])
    (hs : s.shift = none) : s.tick = s.idleTick :=
  State.tick_of_notYet hh hq hs (by simp [State.mustShift, State.shiftEnabled, hr])

theorem State.shiftNext_of_enabled {s : State} {sym : Symbol} {rest : List Symbol} (he : s.shiftEnabled = true)
    (hr : s.ring = sym :: rest) :
    s.shiftNext = { s with ring := rest, shift := some (Shift.start sym), pin := sym.l0, wire := s.wire ++ [sym] } := by
  rcases s.shiftNext_cases with ⟨hd, -⟩ | ⟨_, _, -, hr', h⟩
  · rw [he] at hd
    cases hd
  · rw [hr] at hr'
    cases hr'
    exact h

theorem State.quiet_of_shiftEnabled {s : State} (he : s.shiftEnabled = true) : s.quiet = false := by
  simp only [State.shiftEnabled, Bool.and_eq_true, Bool.not_eq_true'] at he
  simp [State.quiet, he.1.1]

/-- Within a frame the tick takes the next symbol and is the first tick of it. -/
theorem State.tick_of_mustShift {s : State} {sym : Symbol} {rest : List Symbol} (hm : s.mustShift = true)
    (hr : s.ring = sym :: rest) :
    s.tick =
      State.driveTick
        { s with ring := rest, shift := some (Shift.start sym), pin := sym.l0, wire := s.wire ++ [sym] }
        (Shift.start sym) := by
  have he : s.shiftEnabled = true := (Bool.and_eq_true_iff.1 hm).1
  have hh : s.halted = false := by simpa using (Bool.and_eq_true_iff.1 he).2
  simp only [State.tick, State.tickEnabled, State.quiet_of_shiftEnabled he, hh, hm, State.shiftNext_of_enabled he hr]
  rfl

/-- A tick that takes a symbol finds one in the ring, and the serializer idle. -/
theorem State.ring_of_mustShift {s : State} (hm : s.mustShift = true) : ∃ sym rest, s.ring = sym :: rest := by
  rcases s.shiftNext_cases with ⟨hd, -⟩ | ⟨sym, rest, -, hr, -⟩
  · simp [State.mustShift, hd] at hm
  · exact ⟨sym, rest, hr⟩

/-- Settles O39: with the ring not empty the frame's next symbol must be taken. -/
theorem nextSymbolFollowsOnTheNextTick : Obligations.NextSymbolFollowsOnTheNextTick := by
  intro s sym rest hh hs hr hstarted hd
  rw [hr] at hstarted
  have hm : s.mustShift = true := by
    simpa [State.mustShift, State.shiftEnabled, State.frameStarted, hh, hs, hr] using hstarted
  have htick : s.move .tick = _ := State.tick_of_mustShift hm hr
  have hafter : (Shift.start sym).afterTick = some ⟨sym, .first, sym.d0 - 1⟩ := if_pos (show 1 < sym.d0 by omega)
  rw [htick]
  refine ⟨rfl, rfl, hafter, ?_, rfl⟩
  simp only [State.driveTick_pin, hafter]
  rfl

/-! ## The waveform of a symbol (R30) -/

/-- The serializer `k` ticks after it has taken the symbol. -/
def Symbol.progress (sym : Symbol) (k : Nat) : Option Shift :=
  if k < sym.d0 then some ⟨sym, .first, sym.d0 - k⟩
  else if k < sym.d0 + sym.d1 then some ⟨sym, .second, sym.d0 + sym.d1 - k⟩
  else none

theorem Symbol.progress_zero {sym : Symbol} (h0 : 1 ≤ sym.d0) : sym.progress 0 = some (Shift.start sym) :=
  if_pos h0

theorem Symbol.progress_end (sym : Symbol) : sym.progress (sym.d0 + sym.d1) = none := by
  rw [Symbol.progress, if_neg (by omega), if_neg (by omega)]

/-- One tick further along the symbol. -/
theorem Symbol.progress_succ {sym : Symbol} (h1 : 1 ≤ sym.d1) {k : Nat} {p : Shift} (hp : sym.progress k = some p) :
    p.afterTick = sym.progress (k + 1) := by
  unfold Symbol.progress at hp ⊢
  split_ifs at hp with hfirst hsecond <;> cases hp
  · by_cases hlast : k + 1 < sym.d0
    · rw [if_pos hlast, Shift.afterTick, if_pos (by dsimp only; omega)]
      simp only [Nat.sub_sub]
    · rw [if_neg hlast, if_pos (by omega), Shift.afterTick, if_neg (by dsimp only; omega)]
      simp only [Option.some.injEq, Shift.mk.injEq, true_and]
      omega
  · rw [if_neg (by omega)]
    by_cases hlast : k + 1 < sym.d0 + sym.d1
    · rw [if_pos hlast, Shift.afterTick, if_pos (by dsimp only; omega)]
      simp only [Nat.sub_sub]
    · rw [if_neg hlast, Shift.afterTick, if_neg (by dsimp only; omega)]

/-- The serializer is `k` ticks into the symbol, the pin as it drives it. -/
structure State.DrivenFor (s : State) (sym : Symbol) (k : Nat) : Prop where
  running : s.halted = false
  shift : s.shift = sym.progress k
  pin : s.pin = pinLevel s.shift

theorem State.DrivenFor.tick {s : State} {sym : Symbol} {k : Nat} (h : s.DrivenFor sym k) (h1 : 1 ≤ sym.d1)
    (hk : k < sym.d0 + sym.d1) : (s.move .tick).DrivenFor sym (k + 1) := by
  obtain ⟨p, hp⟩ : ∃ p, sym.progress k = some p := by
    unfold Symbol.progress
    split_ifs <;> exact ⟨_, rfl⟩
  have htick : s.move .tick = s.driveTick p := State.tick_of_driving h.running (h.shift.trans hp)
  rw [htick]
  exact ⟨h.running, Symbol.progress_succ h1 hp, rfl⟩

theorem State.DrivenFor.ticks {s : State} {sym : Symbol} (h : s.DrivenFor sym 0) (h1 : 1 ≤ sym.d1) {k : Nat}
    (hk : k ≤ sym.d0 + sym.d1) : (s.moves (List.replicate k .tick)).DrivenFor sym k := by
  induction k with
  | zero => exact h
  | succ k ih =>
    rw [List.replicate_succ', State.moves_append]
    exact (ih (by omega)).tick h1 hk

/-- Settles O38: the progress after `k` ticks, read off at every `k`. -/
theorem symbolIsDrivenForItsTicks : Obligations.SymbolIsDrivenForItsTicks := by
  intro s sym rest he hr h0 h1
  have hh : s.halted = false := by simpa using (Bool.and_eq_true_iff.1 he).2
  have hstart : (s.move .shift).DrivenFor sym 0 := by
    rw [show s.move .shift = _ from State.shiftNext_of_enabled he hr]
    exact ⟨hh, (Symbol.progress_zero h0).symm, rfl⟩
  refine ⟨fun k hk => ?_, ?_⟩
  · obtain ⟨-, hshift, hpin⟩ := hstart.ticks h1 (Nat.le_of_lt hk)
    rw [hpin, hshift, Symbol.progress]
    split_ifs <;> exact ⟨rfl, rfl⟩
  · obtain ⟨-, hshift, hpin⟩ := hstart.ticks h1 (Nat.le_refl _)
    rw [hpin, hshift, Symbol.progress_end]
    exact ⟨rfl, rfl⟩

/-! ## The underrun bit (R197) -/

theorem State.pull_txUnderrun (s : State) (free : Nat) : (s.pull free).txUnderrun = s.txUnderrun := by
  rcases s.pull_cases free with ⟨-, h⟩ | ⟨-, -, h⟩ | ⟨-, -, -, h⟩ | ⟨-, -, -, h⟩ <;> rw [h]

theorem State.shiftNext_txUnderrun (s : State) : s.shiftNext.txUnderrun = s.txUnderrun := by
  rcases s.shiftNext_cases with ⟨-, h⟩ | ⟨_, _, -, -, h⟩ <;> rw [h]

theorem State.complete_txUnderrun (s : State) : s.complete.txUnderrun = s.txUnderrun := by
  rcases s.complete_cases with ⟨-, h⟩ | ⟨-, h⟩ <;> rw [h]

theorem State.inGap_iff (s : State) :
    s.inGap = true ↔
      s.txInFlight = true ∧ s.txDone = false ∧ s.ring = [] ∧ s.shift = none ∧ 0 < s.symbolsWritten := by
  simp only [State.inGap, State.frameStarted, Bool.and_eq_true, Bool.not_eq_true', List.isEmpty_iff,
    Option.isNone_iff_eq_none, decide_eq_true_eq, and_assoc]
  constructor
  · rintro ⟨hf, hd, hr, hs, hw⟩
    exact ⟨hf, hd, hr, hs, by rwa [hr] at hw⟩
  · rintro ⟨hf, hd, hr, hs, hw⟩
    exact ⟨hf, hd, hr, hs, by rwa [hr]⟩

/-- Only a tick in a gap sets the bit. -/
theorem State.tick_txUnderrun {s : State} (h : s.txUnderrun = false) (ht : s.tick.txUnderrun = true) :
    s.inGap = true := by
  rcases s.tick_cases with ⟨-, heq⟩ | ⟨-, hm, heq⟩ | ⟨p, -, -, -, heq⟩ | ⟨-, -, -, heq⟩
  · rw [heq, h] at ht
    cases ht
  · obtain ⟨sym, rest, hr⟩ := State.ring_of_mustShift hm
    rw [State.tick_of_mustShift hm hr, State.driveTick_txUnderrun, h] at ht
    cases ht
  · rw [heq, State.driveTick_txUnderrun, h] at ht
    cases ht
  · rw [heq, State.idleTick_txUnderrun, h, Bool.false_or] at ht
    exact ht

/-- Settles O40: the bit is written by the idle tick alone, which looks for the gap. -/
theorem underrunIsRecordedExactlyInAGap : Obligations.UnderrunIsRecordedExactlyInAGap := by
  refine ⟨fun s hh hf hd hr hs hw => ?_, fun s m h ht => ?_⟩
  · have htick : s.move .tick = s.idleTick := State.tick_of_empty hh (by simp [State.quiet, hf]) hr hs
    rw [htick, State.idleTick_txUnderrun, s.inGap_iff.2 ⟨hf, hd, hr, hs, hw⟩, Bool.or_true]
    exact ⟨rfl, rfl⟩
  · cases m with
    | pull free => rw [show (s.move (.pull free)).txUnderrun = _ from s.pull_txUnderrun free, h] at ht; cases ht
    | shift => rw [show (s.move .shift).txUnderrun = _ from s.shiftNext_txUnderrun, h] at ht; cases ht
    | tick => exact ⟨rfl, s.inGap_iff.1 (State.tick_txUnderrun h ht)⟩
    | complete => rw [show (s.move .complete).txUnderrun = _ from s.complete_txUnderrun, h] at ht; cases ht

/-! ## The wire trace with time (R39) -/

theorem extendWave_head? (wave : List Segment) (l : Level) : (extendWave wave l).head?.map Segment.level = some l := by
  unfold extendWave
  split
  · rfl
  · split <;> rfl

theorem waveTicks_extendWave (wave : List Segment) (l : Level) :
    waveTicks (extendWave wave l) = waveTicks wave + 1 := by
  unfold extendWave
  split
  · rfl
  · split <;> simp [waveTicks] <;> omega

/-- A tick that counts extends the trace by one tick, at some level. -/
theorem State.tick_wave {s : State} (hh : s.halted = false) (hq : s.quiet = false) :
    ∃ l, s.tick.wave = extendWave s.wave l := by
  rcases s.tick_cases with ⟨hd, -⟩ | ⟨-, hm, -⟩ | ⟨p, -, -, -, h⟩ | ⟨-, -, -, h⟩
  · simp [State.tickEnabled, hh, hq] at hd
  · obtain ⟨sym, rest, hr⟩ := State.ring_of_mustShift hm
    exact ⟨_, by rw [State.tick_of_mustShift hm hr, State.driveTick_wave]⟩
  · exact ⟨_, by rw [h, State.driveTick_wave]⟩
  · exact ⟨_, by rw [h, State.idleTick_wave]⟩

theorem State.pull_wave (s : State) (free : Nat) : (s.pull free).wave = s.wave := by
  rcases s.pull_cases free with ⟨-, h⟩ | ⟨-, -, h⟩ | ⟨-, -, -, h⟩ | ⟨-, -, -, h⟩ <;> rw [h]

theorem State.shiftNext_wave (s : State) : s.shiftNext.wave = s.wave := by
  rcases s.shiftNext_cases with ⟨-, h⟩ | ⟨_, _, -, -, h⟩ <;> rw [h]

theorem State.complete_wave (s : State) : s.complete.wave = s.wave := by
  rcases s.complete_cases with ⟨-, h⟩ | ⟨-, h⟩ <;> rw [h]

/-- Settles O41: a tick drives the symbol under way, takes the ring's next, or idles; each records its own level. -/
theorem everyTickIsTracedOnce : Obligations.EveryTickIsTracedOnce := by
  refine ⟨fun s hh hq => ⟨?_, fun p hp => ?_, fun hs hr => ?_, fun sym rest hs hr hm => ?_,
    fun sym rest hs hr hm => ?_⟩, fun s m hm => ?_⟩
  · obtain ⟨l, hl⟩ := State.tick_wave hh hq
    rw [show (s.move .tick).wave = _ from hl, waveTicks_extendWave]
  · rw [show s.move .tick = _ from State.tick_of_driving hh hp]
    exact ⟨extendWave_head? _ _, rfl⟩
  · rw [show s.move .tick = _ from State.tick_of_empty hh hq hr hs]
    exact ⟨extendWave_head? _ _, rfl⟩
  · rw [show s.move .tick = _ from State.tick_of_mustShift hm hr]
    exact ⟨extendWave_head? _ _, rfl⟩
  · rw [show s.move .tick = _ from State.tick_of_notYet hh hq hs hm]
    exact ⟨extendWave_head? _ _, rfl⟩
  · cases m with
    | pull free => exact s.pull_wave free
    | shift => exact s.shiftNext_wave
    | tick => exact absurd rfl hm
    | complete => exact s.complete_wave

end Sys2Proof.Machine
end

section
/-! PROOFS. A whole transmission (42_encoder.md, 43_tx_driver.md): what has been sent and what is still to be sent
make up the frame under every schedule, and some schedule always brings it to its end. -/

namespace Sys2Proof.Machine

/-! ## What has been sent and what is to be sent -/

/-- What the encoder has still to return of the frame in flight (R27, R172). -/
def State.toSend (s : State) : List Symbol :=
  if s.txDone then [] else frameFrom s.pixels s.txLength.val (cursor s.symbolsWritten)

theorem State.toSend_of_done {s : State} (hd : s.txDone = true) : s.toSend = [] := if_pos hd

theorem State.toSend_of_notDone {s : State} (hd : s.txDone = false) :
    s.toSend = frameFrom s.pixels s.txLength.val (cursor s.symbolsWritten) :=
  if_neg (by simp [hd])

/-- Since the issue in `s` the agents have only sent its frame: the wire, the ring and what is still to be sent make
it up. -/
structure Sending (s t : State) : Prop where
  pixels : t.pixels = s.pixels
  txLength : t.txLength = s.txLength
  frame : t.wire ++ t.ring ++ t.toSend = s.wire ++ frameOfBytes s.pixels s.txLength.val
  cursorInRange : t.txDone = false → cursor t.symbolsWritten ≤ t.txLength.val
  drained : t.txInFlight = false → t.txDone = true ∧ t.ring = []

namespace Sending

variable {s t : State}

/-- R188: an issue leaves the whole frame to be sent. -/
theorem of_issue (hf : s.txInFlight = true) (hd : s.txDone = false) (hw : s.symbolsWritten = 0) (hr : s.ring = []) :
    Sending s s where
  pixels := rfl
  txLength := rfl
  frame := by
    rw [State.toSend_of_notDone hd, hw, hr, List.append_nil]
    exact congrArg _ (frameFrom_zero _ _)
  cursorInRange := fun _ => by simp [hw, cursor]
  drained := fun hend => nomatch hf.symm.trans hend

theorem pull (h : Sending s t) (free : Nat) : Sending s (t.pull free) := by
  rcases t.pull_cases free with ⟨-, heq⟩ | ⟨-, -, heq⟩ | ⟨hen, -, hlt, heq⟩ | ⟨hen, -, hge, heq⟩
  · rwa [heq]
  · rw [heq]
    exact { h with }
  · obtain ⟨hf, hd, -⟩ := t.pullEnabled_iff.1 hen
    have hcursor : cursor (t.symbolsWritten + 8) = t.symbolsWritten / 8 + 1 := by rw [cursor]; omega
    have hframe := h.frame
    rw [State.toSend_of_notDone hd, show cursor t.symbolsWritten = t.symbolsWritten / 8 from rfl,
      frameFrom_of_lt hlt] at hframe
    rw [heq]
    refine ⟨h.pixels, h.txLength, ?_, fun _ => by rw [hcursor]; exact hlt, fun hend => nomatch hf.symm.trans hend⟩
    rw [← hframe, State.toSend_of_notDone]
    · simp only [hcursor, List.append_assoc]
    · exact hd
  · obtain ⟨hf, hd, -⟩ := t.pullEnabled_iff.1 hen
    have hlast : cursor t.symbolsWritten = t.txLength.val := Nat.le_antisymm (h.cursorInRange hd) hge
    have hframe := h.frame
    rw [State.toSend_of_notDone hd, hlast, frameFrom_self] at hframe
    rw [heq]
    refine ⟨h.pixels, h.txLength, ?_, nofun, fun hend => nomatch hf.symm.trans hend⟩
    rw [← hframe, State.toSend_of_done, List.append_nil, List.append_assoc]
    rfl

theorem shiftNext (h : Sending s t) : Sending s t.shiftNext := by
  rcases t.shiftNext_cases with ⟨-, heq⟩ | ⟨sym, rest, -, hr, heq⟩
  · rwa [heq]
  · have hframe := h.frame
    rw [hr] at hframe
    rw [heq]
    refine ⟨h.pixels, h.txLength, ?_, h.cursorInRange, fun hend => nomatch hr.symm.trans (h.drained hend).2⟩
    rw [← hframe, List.append_assoc t.wire]
    rfl

theorem passTick (h : Sending s t) : Sending s t.passTick := by
  rcases t.passTick_cases with ⟨p, -, heq⟩ | ⟨-, heq⟩ <;> rw [heq] <;>
    exact { h with }

theorem tick (h : Sending s t) : Sending s t.tick := by
  unfold State.tick
  split_ifs
  · exact h.shiftNext.passTick
  · exact h.passTick
  · exact h

theorem complete (h : Sending s t) : Sending s t.complete := by
  rcases t.complete_cases with ⟨-, heq⟩ | ⟨hen, heq⟩ <;> rw [heq]
  · exact h
  · obtain ⟨-, hd, hr, -, -⟩ := t.completeEnabled_iff.1 hen
    exact { h with drained := fun _ => ⟨hd, hr⟩ }

theorem move (h : Sending s t) (m : Move) : Sending s (t.move m) := by
  cases m with
  | pull free => exact h.pull free
  | shift => exact h.shiftNext
  | tick => exact h.tick
  | complete => exact h.complete

theorem moves (h : Sending s t) (ms : List Move) : Sending s (t.moves ms) :=
  State.moves_induct (fun _ m h => h.move m) h ms

/-- A completed transmission has nothing left in the ring and nothing to send. -/
theorem wire_of_completed (h : Sending s t) (hf : t.txInFlight = false) :
    t.wire = s.wire ++ frameOfBytes s.pixels s.txLength.val := by
  obtain ⟨hd, hr⟩ := h.drained hf
  have hframe := h.frame
  rwa [State.toSend_of_done hd, hr, List.append_nil, List.append_nil] at hframe

end Sending

/-- Settles O43: every schedule keeps `Sending`, and at its end only the wire is left of it. -/
theorem completedTransmissionSentItsFrame : Obligations.CompletedTransmissionSentItsFrame :=
  fun _ ms hf hd hw hr _ hend => ((Sending.of_issue hf hd hw hr).moves ms).wire_of_completed hend

/-! ## What the agents can reach -/

/-- Some schedule of the agents leads from `s` to a state with `P`. -/
def State.CanReach (s : State) (P : State → Prop) : Prop := ∃ ms : List Move, P (s.moves ms)

theorem State.CanReach.now {s : State} {P : State → Prop} (h : P s) : s.CanReach P := ⟨[], h⟩

theorem State.CanReach.step {s : State} {P : State → Prop} (m : Move) (h : (s.move m).CanReach P) : s.CanReach P := by
  obtain ⟨ms, h⟩ := h
  exact ⟨m :: ms, h⟩

theorem State.CanReach.andThen {s : State} {P Q : State → Prop} (h : s.CanReach P) (k : ∀ t, P t → t.CanReach Q) :
    s.CanReach Q := by
  obtain ⟨ms, h⟩ := h
  obtain ⟨ns, k⟩ := k _ h
  exact ⟨ms ++ ns, by rwa [State.moves_append]⟩

theorem State.CanReach.mono {s : State} {P Q : State → Prop} (h : s.CanReach P) (k : ∀ t, P t → Q t) : s.CanReach Q :=
  h.andThen fun t ht => .now (k t ht)

/-! ## Draining the ring -/

/-- The transmission is as it was: what only the serializer moves may have changed. -/
structure SameTransmission (s t : State) : Prop where
  agentsOnly : AgentsOnly s t
  txInFlight : t.txInFlight = s.txInFlight
  txDone : t.txDone = s.txDone
  symbolsWritten : t.symbolsWritten = s.symbolsWritten

theorem SameTransmission.refl (s : State) : SameTransmission s s := ⟨.refl s, rfl, rfl, rfl⟩

theorem SameTransmission.trans {s t u : State} (h : SameTransmission s t) (k : SameTransmission t u) :
    SameTransmission s u :=
  ⟨h.agentsOnly.trans k.agentsOnly, k.txInFlight.trans h.txInFlight, k.txDone.trans h.txDone,
    k.symbolsWritten.trans h.symbolsWritten⟩

theorem State.driveTick_sameTransmission (s : State) (p : Shift) : SameTransmission s (s.driveTick p) :=
  ⟨by constructor <;> rfl, rfl, rfl, rfl⟩

theorem State.idleTick_sameTransmission (s : State) : SameTransmission s s.idleTick :=
  ⟨by constructor <;> rfl, rfl, rfl, rfl⟩

theorem State.passTick_sameTransmission (s : State) : SameTransmission s s.passTick := by
  rcases s.passTick_cases with ⟨p, -, h⟩ | ⟨-, h⟩ <;> rw [h]
  · exact s.driveTick_sameTransmission p
  · exact s.idleTick_sameTransmission

theorem State.shiftNext_sameTransmission (s : State) : SameTransmission s s.shiftNext := by
  refine ⟨s.shiftNext_agentsOnly, ?_, ?_, ?_⟩ <;>
    rcases s.shiftNext_cases with ⟨-, h⟩ | ⟨_, _, -, -, h⟩ <;> rw [h]

theorem State.tick_sameTransmission (s : State) : SameTransmission s s.tick := by
  unfold State.tick
  split_ifs
  · exact s.shiftNext_sameTransmission.trans (State.passTick_sameTransmission _)
  · exact s.passTick_sameTransmission
  · exact .refl s

/-- A bound on the ticks a progress still takes. -/
def Shift.remaining (p : Shift) : Nat :=
  match p.half with
  | .first => p.ticksLeft + p.symbol.d1 + 1
  | .second => p.ticksLeft

theorem Shift.remaining_afterTick {p q : Shift} (h : p.afterTick = some q) : q.remaining < p.remaining := by
  obtain ⟨sym, half, n⟩ := p
  simp only [Shift.afterTick] at h
  split at h
  · cases h
    cases half <;> simp only [Shift.remaining] <;> omega
  · cases half <;> cases h
    simp only [Shift.remaining]
    omega

/-- The symbol under way can be driven to its end. -/
theorem State.canIdle {s : State} (hh : s.halted = false) :
    s.CanReach fun t => SameTransmission s t ∧ t.ring = s.ring ∧ t.shift = none := by
  cases hs : s.shift with
  | none => exact .now ⟨.refl s, rfl, hs⟩
  | some p =>
    induction hn : p.remaining using Nat.strong_induction_on generalizing s p with
    | h n ih =>
      subst hn
      refine .step .tick ?_
      rw [show s.move .tick = s.driveTick p from State.tick_of_driving hh hs]
      have hsame := s.driveTick_sameTransmission p
      cases hq : p.afterTick with
      | none => exact .now ⟨hsame, rfl, hq⟩
      | some q =>
        exact (ih _ (Shift.remaining_afterTick hq) (s := s.driveTick p) hh q hq rfl).mono
          fun t ⟨ht, hr, hidle⟩ => ⟨hsame.trans ht, hr, hidle⟩

/-- Everything in the ring can be driven on the wire. -/
theorem State.canDrain {s : State} (hh : s.halted = false) :
    s.CanReach fun t => SameTransmission s t ∧ t.ring = [] ∧ t.shift = none := by
  induction hl : s.ring generalizing s with
  | nil => exact hl ▸ State.canIdle hh
  | cons sym rest ih =>
    refine (State.canIdle hh).andThen fun t ⟨ht, hr, hidle⟩ => .step .shift ?_
    have hht : t.halted = false := ht.agentsOnly.halted.trans hh
    have hen : t.shiftEnabled = true := by simp [State.shiftEnabled, hr, hl, hidle, hht]
    have hring : (t.move .shift).ring = rest := by
      rw [show t.move .shift = _ from State.shiftNext_of_enabled hen (hr.trans hl)]
    have hsame := t.shiftNext_sameTransmission
    exact (ih (hsame.agentsOnly.halted.trans hht) hring).mono fun u ⟨hu, hr', hs'⟩ =>
      ⟨ht.trans (hsame.trans hu), hr', hs'⟩

/-! ## Bringing a transmission to its end -/

/-- With room for a byte in an empty ring the encoder can be brought to RESET: each pull into the drained ring takes a
byte of those left, or is the last. -/
theorem State.canFinish {s : State} (hh : s.halted = false) (hf : s.txInFlight = true)
    (hcap : 8 ≤ s.channel.blockSymbols) :
    s.CanReach fun t => t.halted = false ∧ t.txInFlight = true ∧ t.txDone = true := by
  induction hn : s.txLength.val - s.symbolsWritten / 8 using Nat.strong_induction_on generalizing s with
  | h n ih =>
    cases hd : s.txDone with
    | true => exact .now ⟨hh, hf, hd⟩
    | false =>
      refine (State.canDrain hh).andThen fun t ⟨⟨ha, hft, hdt, hwt⟩, hr, _⟩ => .step (.pull 8) ?_
      have hht : t.halted = false := ha.halted.trans hh
      have hen : t.pullEnabled = true := t.pullEnabled_iff.2 ⟨hft.trans hf, hdt.trans hd, hht⟩
      have hroom : 8 ≤ min 8 t.room := by
        rw [State.room, hr, ha.channel, List.length_nil]
        omega
      rw [show t.move (.pull 8) = t.pull 8 from rfl]
      rcases t.pull_cases 8 with ⟨hdis, -⟩ | ⟨-, hno, -⟩ | ⟨-, -, hlt, h⟩ | ⟨-, -, -, h⟩
      · rw [hen] at hdis
        cases hdis
      · omega
      · rw [h]
        refine ih _ ?_ hht (hft.trans hf) (ha.channel ▸ hcap) rfl
        rw [ha.txLength, hwt] at hlt
        simp only [ha.txLength, hwt]
        omega
      · rw [h]
        exact .now ⟨hht, hft.trans hf, rfl⟩

/-- Settles O44: the encoder is brought to RESET, the ring drained, and COMPLETE is enabled. -/
theorem transmissionCanAlwaysComplete : Obligations.TransmissionCanAlwaysComplete := by
  intro s hinv hh hf
  have hinit : s.initialized = true := by
    by_contra h
    have := (hinv.initFirst (by simpa using h)).1
    rw [hf] at this
    cases this
  have hcap : 8 ≤ s.channel.blockSymbols := by
    rw [hinv.configured hinit]
    exact Config.blockSymbols_ge
  show s.CanReach fun t => t.txInFlight = false
  refine (State.canFinish hh hf hcap).andThen fun t ⟨hht, hft, hdt⟩ => ?_
  refine (State.canDrain hht).andThen fun u ⟨⟨ha, hfu, hdu, _⟩, hr, hs⟩ => .step .complete (.now ?_)
  have hen : u.completeEnabled = true :=
    u.completeEnabled_iff.2 ⟨hfu.trans hft, hdu.trans hdt, hr, hs, ha.halted.trans hht⟩
  rw [show u.move .complete = { u with txInFlight := false } from if_pos hen]

end Sys2Proof.Machine
end

section
/-! PROOFS. Laws of the state that every operation keeps: a law that the parts of the operations keep (the turns of
the other agents, the writes of the HOST, the events and responses, the calls and the issue of a FLUSH), every
operation and every step keeps. -/

namespace Sys2Proof.Machine

/-- The law `P` is kept by the parts of every operation: the moves of the agents, the stores, events and answers. -/
structure Kept (P : State → Prop) : Prop where
  draw : ∀ s, P s → P s.takeTurn.2
  move : ∀ s m, P s → P (s.move m)
  write : ∀ s w, P s → P (s.hostWrite w)
  emit : ∀ s e, P s → P (s.emit e)
  respond : ∀ s r d, P s → P (s.respond r d)
  halt : ∀ s, P s → P s.halt
  answerPull : ∀ s w f, P s → P (s.answerPull w f)
  port : ∀ s ws, P s → P { s with cmdWords := ws }

/-- The law `P` is kept by the parts of a FLUSH: its calls, its wait, and its issue while nothing is in flight. -/
structure FlushKept (P : State → Prop) : Prop where
  call : ∀ s c, P s → P (s.recordCall c)
  answer : ∀ s, P s → P s.takeAnswer.2
  wait : ∀ s leds, P s → P (s.wait leds)
  issue : ∀ s leds, s.txInFlight = false → P s → P (s.issue leds)

theorem Kept.and {P Q : State → Prop} (hp : Kept P) (hq : Kept Q) : Kept fun s => P s ∧ Q s where
  draw s h := ⟨hp.draw s h.1, hq.draw s h.2⟩
  move s m h := ⟨hp.move s m h.1, hq.move s m h.2⟩
  write s w h := ⟨hp.write s w h.1, hq.write s w h.2⟩
  emit s e h := ⟨hp.emit s e h.1, hq.emit s e h.2⟩
  respond s r d h := ⟨hp.respond s r d h.1, hq.respond s r d h.2⟩
  halt s h := ⟨hp.halt s h.1, hq.halt s h.2⟩
  answerPull s w f h := ⟨hp.answerPull s w f h.1, hq.answerPull s w f h.2⟩
  port s ws h := ⟨hp.port s ws h.1, hq.port s ws h.2⟩

namespace Kept

variable {P : State → Prop} {s t : State}

/-! ## Operations without a FLUSH -/

theorem raise (hk : Kept P) (h : P s) (e : Event) : P (s.raise e) := by
  have hemit := hk.emit s e h
  cases e with
  | logOutOfRange => exact hemit
  | outOfRange => exact hk.respond _ _ _ hemit
  | noInput => exact hk.respond _ _ _ hemit
  | hardwareFault => exact hk.halt _ hemit
  | refused => exact hk.respond _ _ _ hemit

theorem hostWrites (hk : Kept P) (h : P s) (ws : List HostWrite) : P (s.hostWrites ws) :=
  State.hostWrites_induct hk.draw hk.move hk.write h ws

theorem agentsTurn (hk : Kept P) (h : P s) : P s.agentsTurn :=
  State.agentsTurn_induct hk.draw hk.move h

theorem setLed (hk : Kept P) (h : P s) (index : Nat) (c : Colour) : P (s.setLed index c) := by
  unfold State.setLed
  split
  · exact hk.hostWrites h _
  · exact hk.raise h _

theorem getLed (hk : Kept P) (h : P s) (index : Nat) : P (s.getLed index) := by
  unfold State.getLed
  split <;> exact hk.respond _ _ _ h

theorem applyParams (hk : Kept P) (h : P s) (ps : List Word) (k : Nat) : P (State.applyParams ps k s).2 := by
  induction ps generalizing k s with
  | nil => exact h
  | cons p ps ih =>
    unfold State.applyParams
    split
    · exact h
    · exact ih (hk.setLed h k _) (k + 1)

/-! ## FLUSH and the operations that contain it -/

theorem transmit (hk : Kept P) (hf : FlushKept P) (h : P s) (hidle : s.txInFlight = false) (leds : Fin 257) :
    P (s.transmit leds) := by
  have hcall : P (s.platformCall (.transmit (bytesOfLeds leds).val)).2 := hf.answer _ (hf.call _ _ h)
  have hidle' : (s.platformCall (.transmit (bytesOfLeds leds).val)).2.txInFlight = false := by
    rw [s.platformCall_eq]
    exact hidle
  rcases s.transmit_cases leds with ⟨-, heq⟩ | ⟨-, heq⟩ <;> rw [heq]
  · exact hk.halt _ (hk.emit _ _ hcall)
  · exact hk.respond _ _ _ (hf.issue _ _ hidle' hcall)

theorem awaitDone (hk : Kept P) (hf : FlushKept P) (h : P s) (leds : Fin 257) : P (s.awaitDone leds) := by
  have hanswer := hf.answer _ h
  rcases s.awaitDone_cases leds with ⟨-, heq⟩ | ⟨-, -, heq⟩ | ⟨-, hidle, heq⟩ <;> rw [heq]
  · exact hk.halt _ (hk.emit _ _ hanswer)
  · exact hf.wait _ _ hanswer
  · refine hk.transmit hf hanswer ?_ leds
    rw [s.takeAnswer_eq]
    exact hidle

theorem flush (hk : Kept P) (hf : FlushKept P) (h : P s) (count : Nat) : P (s.flush count) :=
  hk.awaitDone hf (hf.call _ _ h) _

theorem clearAll (hk : Kept P) (hf : FlushKept P) (hclear : ∀ s n, P s → P (s.setUsed n)) (h : P s) : P s.clearAll :=
  hk.flush hf (hclear _ _ (hk.hostWrites h clearWrites)) _

theorem ledCommand (hk : Kept P) (hf : FlushKept P) (h : P s) (params : List Word) : P (s.ledCommand params) := by
  have hstored := hk.applyParams h params 0
  unfold State.ledCommand
  split
  · exact hk.raise h .noInput
  · dsimp only
    split
    · exact hk.raise hstored _
    · exact hk.flush hf hstored _

/-! ## The operations as the port performs them, and a step -/

/-- An operation that needs INIT runs after it, or is refused (R182). -/
theorem accept (hk : Kept P) (h : P s) {header : Word} {run : State → State}
    (he : Machine.accept header run s = .next t) (hrun : s.initialized = true → P (run s)) : P t := by
  rcases accept_cases header run s with ⟨-, heq⟩ | ⟨-, hinit, heq⟩ | ⟨-, -, heq⟩ <;> rw [heq] at he <;> cases he
  · exact hrun hinit
  · exact hk.respond _ _ _ (hk.emit _ _ h)

/-- Every operation keeps the law: one that contains a FLUSH where its parts do, CLEAR_ALL where the assignment of
`used_count` does, and INIT after INIT. -/
theorem exec (hk : Kept P) (h : P s) {i : Instr} (he : Machine.exec i s = .next t)
    (hf : s.initialized = true → containsFlush i → FlushKept P)
    (hclear : i = .clearAll → ∀ s n, P s → P (s.setUsed n)) (hinit : i = .init → s.initialized = true) : P t := by
  cases i with
  | init =>
    simp only [Machine.exec, execInit, hinit rfl, if_true] at he
    split at he <;> cases he
    exact hk.raise h _
  | clearAll => exact hk.accept h he fun hi => hk.clearAll (hf hi (.inr (.inl rfl))) (hclear rfl) h
  | set index r g b =>
    exact hk.accept (run := fun s => (s.setLed index.toNat ⟨r, g, b⟩).respond .ok none) h he fun _ =>
      hk.respond _ _ _ (hk.setLed h _ _)
  | get index =>
    exact hk.accept (run := fun s => s.getLed index.toNat) h he fun _ =>
      hk.getLed h _
  | quant code =>
    simp only [Machine.exec, execQuant] at he
    split at he <;> cases he
    exact hk.respond _ _ _ h
  | flush count =>
    exact hk.accept (run := fun s => s.flush count.toNat) h he fun hi =>
      hk.flush (hf hi (.inr (.inr (.inl ⟨_, rfl⟩)))) h _
  | led params =>
    exact hk.accept (run := fun s => s.ledCommand params) h he fun hi =>
      hk.ledCommand (hf hi (.inr (.inr (.inr ⟨_, rfl⟩)))) h _
  | encPull written free =>
    simp only [Machine.exec, execEncPull] at he
    split at he <;> cases he
    exact hk.answerPull _ _ _ h
  | reserved header operand =>
    simp only [Machine.exec, execReserved] at he
    split at he <;> cases he
    exact hk.raise h _

/-- After INIT every step keeps the law. -/
theorem step (hk : Kept P) (h : P s) (he : Machine.step s = .next t) (hinit : s.initialized = true)
    (hf : FlushKept P) (hclear : ∀ s n, P s → P (s.setUsed n)) : P t := by
  have hturn := hk.agentsTurn h
  obtain ⟨-, ⟨leds, -, rfl⟩ | ⟨i, rest, -, -, hexec⟩ | ⟨_, -, -, rfl⟩⟩ := step_cases he
  · exact hk.awaitDone hf hturn leds
  · exact hk.exec (hk.port _ rest hturn) hexec (fun _ _ => hf) (fun _ => hclear)
      fun _ => s.agentsTurn_agentsOnly.initialized.trans hinit
  · exact hturn

end Kept

/-! ## The counted LEDs (R22) -/

theorem kept_usedCount_ge (n : Nat) : Kept fun t => n ≤ t.usedCount.val where
  draw s h := by rwa [s.takeTurn_agentsOnly.usedCount]
  move s m h := by rwa [(s.move_agentsOnly m).usedCount]
  write s w h := by rw [s.hostWrite_usedCount]; exact Nat.le_trans h (Nat.le_max_left _ _)
  emit _ _ h := h
  respond _ _ _ h := h
  halt _ h := h
  answerPull _ _ _ h := h
  port _ _ h := h

theorem flushKept_usedCount_ge (n : Nat) : FlushKept fun t => n ≤ t.usedCount.val where
  call _ _ h := h
  answer s h := by rwa [s.takeAnswer_frame.usedCount]
  wait _ _ h := h
  issue _ _ _ h := h

/-- Settles O54: only the assignment inside CLEAR_ALL lowers it. -/
theorem usedCountFallsOnlyOnClear : Obligations.UsedCountFallsOnlyOnClear :=
  fun s _ _ he hclear hinit => (kept_usedCount_ge s.usedCount.val).exec (Nat.le_refl _) he
    (fun _ _ => flushKept_usedCount_ge _) (fun h => absurd h hclear) (fun h => absurd h hinit)

/-! ## The configuration (R35) -/

theorem kept_initialized : Kept fun t => t.initialized = true where
  draw s h := s.takeTurn_agentsOnly.initialized.trans h
  move s m h := (s.move_agentsOnly m).initialized.trans h
  write _ w h := by cases w <;> exact h
  emit _ _ h := h
  respond _ _ _ h := h
  halt _ h := h
  answerPull _ _ _ h := h
  port _ _ h := h

theorem kept_channel (c : Channel) : Kept fun t => t.channel = c where
  draw s h := s.takeTurn_agentsOnly.channel.trans h
  move s m h := (s.move_agentsOnly m).channel.trans h
  write _ w h := by cases w <;> exact h
  emit _ _ h := h
  respond _ _ _ h := h
  halt _ h := h
  answerPull _ _ _ h := h
  port _ _ h := h

theorem flushKept_configuration (c : Channel) : FlushKept fun t => t.channel = c ∧ t.initialized = true where
  call _ _ h := h
  answer s h := ⟨s.takeAnswer_frame.channel.trans h.1, s.takeAnswer_frame.initialized.trans h.2⟩
  wait _ _ h := h
  issue _ _ _ h := h

/-- Settles O56: the channel and `initialized` are written by INIT alone. -/
theorem configurationIsStaticAfterInit : Obligations.ConfigurationIsStaticAfterInit :=
  fun s _ hinit he => ((kept_channel s.channel).and kept_initialized).step ⟨rfl, hinit⟩ he hinit
    (flushKept_configuration _) (fun _ _ h => h)

/-! ## The transmission in flight (R24, R198) -/

/-- What a move does to `tx_in_flight`: nothing, unless it is an enabled COMPLETE. -/
theorem State.move_txInFlight (s : State) (m : Move) :
    (s.move m).txInFlight = s.txInFlight ∨
      (m = .complete ∧ s.completeEnabled = true ∧ s.move m = { s with txInFlight := false }) := by
  cases m with
  | pull free =>
    left
    show (s.pull free).txInFlight = _
    rcases s.pull_cases free with ⟨-, h⟩ | ⟨-, -, h⟩ | ⟨-, -, -, h⟩ | ⟨-, -, -, h⟩ <;> rw [h]
  | shift => exact .inl s.shiftNext_sameTransmission.txInFlight
  | tick => exact .inl s.tick_sameTransmission.txInFlight
  | complete =>
    rcases s.complete_cases with ⟨-, h⟩ | ⟨hen, h⟩
    · exact .inl (congrArg State.txInFlight h)
    · exact .inr ⟨rfl, hen, h⟩

/-- A move that nothing enables changes nothing. -/
theorem State.move_of_disabled {s : State} (hp : s.pullEnabled = false) (hs : s.shiftEnabled = false)
    (ht : s.tickEnabled = false) (hc : s.completeEnabled = false) (m : Move) : s.move m = s := by
  cases m with
  | pull free => exact if_neg (by simp [hp])
  | shift => exact if_neg (by simp [hs])
  | tick => exact if_neg (by simp [ht])
  | complete => exact if_neg (by simp [hc])

theorem State.move_of_quiet {s : State} (hq : s.quiet = true) (m : Move) : s.move m = s := by
  obtain ⟨hf, hr, hs⟩ := s.quiet_iff.1 hq
  exact State.move_of_disabled (by simp [State.pullEnabled, hf]) (by simp [State.shiftEnabled, hr])
    (by simp [State.tickEnabled, hq]) (by simp [State.completeEnabled, hf]) m

/-- Settles O28: no step, no meaning, and every move disabled. -/
theorem haltedBlockTakesNoStep : Obligations.HaltedBlockTakesNoStep := by
  intro s hh
  refine ⟨step_of_halted hh, fun i => ?_, fun ms => ?_⟩
  · cases i <;> exact if_pos hh
  · have hstays : ∀ m, s.move m = s :=
      State.move_of_disabled (by simp [State.pullEnabled, hh]) (by simp [State.shiftEnabled, hh])
        (by simp [State.tickEnabled, hh]) (by simp [State.completeEnabled, hh])
    exact State.moves_induct (P := fun t => t = s) (fun _ m h => by rw [h, hstays]) rfl ms

/-- Where no transmission is in flight, the last one is over: RESET was pushed, and everything was driven. -/
def State.LastOver (s : State) : Prop := s.txInFlight = false → s.txDone = true ∧ s.ring = [] ∧ s.shift = none

theorem State.LastOver.move {s : State} (h : s.LastOver) (m : Move) : (s.move m).LastOver := by
  intro hf
  rcases s.move_txInFlight m with hsame | ⟨-, hen, heq⟩
  · obtain ⟨hd, hr, hs⟩ := h (hsame.symm.trans hf)
    rw [State.move_of_quiet (s.quiet_iff.2 ⟨hsame.symm.trans hf, hr, hs⟩)]
    exact ⟨hd, hr, hs⟩
  · obtain ⟨-, hd, hr, hs, -⟩ := s.completeEnabled_iff.1 hen
    rw [heq]
    exact ⟨hd, hr, hs⟩

theorem kept_lastOver : Kept State.LastOver where
  draw s h := by rcases s.takeTurn_cases with ⟨_, _, -, heq⟩ | ⟨-, heq⟩ <;> rw [heq] <;> exact h
  move _ m h := h.move m
  write _ w h := by cases w <;> exact h
  emit _ _ h := h
  respond _ _ _ h := h
  halt _ h := h
  answerPull _ _ _ h := h
  port _ _ h := h

theorem flushKept_lastOver : FlushKept State.LastOver where
  call _ _ h := h
  answer s h := by rw [s.takeAnswer_eq]; exact h
  wait _ _ h := h
  issue _ _ _ _ := nofun

/-- Settles O37: of a move directly; of an operation and a step because they keep `LastOver`, which a transmission in
flight meets. -/
theorem transmissionEndsOnlyByComplete : Obligations.TransmissionEndsOnlyByComplete := by
  refine ⟨fun s m hf hend => ?_, fun s t i hinit hf he => ?_, fun s t hinit hf he => ?_⟩
  · rcases s.move_txInFlight m with hsame | ⟨hm, hen, heq⟩
    · exact nomatch hf.symm.trans (hsame.symm.trans hend)
    · obtain ⟨-, hd, hr, hs, -⟩ := s.completeEnabled_iff.1 hen
      exact ⟨hm, hd, hr, hs, heq⟩
  · exact kept_lastOver.exec (fun hend => nomatch hf.symm.trans hend) he (fun _ _ => flushKept_lastOver)
      (fun _ _ _ h => h) (fun _ => hinit)
  · exact kept_lastOver.step (fun hend => nomatch hf.symm.trans hend) he hinit flushKept_lastOver (fun _ _ h => h)

theorem kept_notInFlight : Kept fun t => t.txInFlight = false where
  draw s h := by rcases s.takeTurn_cases with ⟨_, _, -, heq⟩ | ⟨-, heq⟩ <;> rw [heq] <;> exact h
  move s m h := by
    rcases s.move_txInFlight m with hsame | ⟨-, -, heq⟩
    · exact hsame.trans h
    · rw [heq]
  write _ w h := by cases w <;> exact h
  emit _ _ h := h
  respond _ _ _ h := h
  halt _ h := h
  answerPull _ _ _ h := h
  port _ _ h := h

/-- Settles O55: an operation without a FLUSH begins none, and a look at the wait during one only waits or halts. -/
theorem onlyFlushingOperationsTransmit : Obligations.OnlyFlushingOperationsTransmit := by
  refine ⟨fun s t i he hf hft => ?_, fun s leds hf => ?_⟩
  · by_contra hno
    have hkept := kept_notInFlight.exec hf he (fun _ hi => absurd hi hno)
      (fun h => absurd (.inr (.inl h)) hno) (fun h => absurd (.inl h) hno)
    exact nomatch hft.symm.trans hkept
  · rcases s.awaitDone_cases leds with ⟨-, heq⟩ | ⟨-, -, heq⟩ | ⟨-, hidle, -⟩
    · rw [heq, s.takeAnswer_eq]
      exact ⟨hf, rfl, rfl, rfl, rfl⟩
    · rw [heq, s.takeAnswer_eq]
      exact ⟨hf, rfl, rfl, rfl, rfl⟩
    · exact nomatch hf.symm.trans hidle

end Sys2Proof.Machine
end

section
/-! PROOFS. The invariant of every run (10_state.md sections 2 to 6): every part of an operation keeps it, so every
operation and every step does. -/

namespace Sys2Proof.Machine

/-! ## Canonical symbols (R31) -/

theorem Symbol.ofBit_canonical (b : Bool) : Symbol.ofBit b ∈ [Symbol.zero, Symbol.one, Symbol.reset] := by
  cases b <;> simp [Symbol.ofBit]

theorem Symbol.ofByte_canonical (v : Byte) :
    ∀ sym ∈ Symbol.ofByte v, sym ∈ [Symbol.zero, Symbol.one, Symbol.reset] := by
  intro sym h
  rw [Symbol.ofByte_eq_map, List.mem_map] at h
  obtain ⟨j, -, rfl⟩ := h
  exact Symbol.ofBit_canonical _

theorem Symbol.durations_pos {sym : Symbol} (h : sym ∈ [Symbol.zero, Symbol.one, Symbol.reset]) :
    1 ≤ sym.d0 ∧ 1 ≤ sym.d1 := by
  simp only [List.mem_cons, List.not_mem_nil, or_false] at h
  rcases h with rfl | rfl | rfl <;> decide

/-- A symbol under way stays one that is driven for its ticks. -/
theorem Shift.afterTick_lives {p q : Shift} (hp : 1 ≤ p.ticksLeft ∧ p.symbol ∈ [Symbol.zero, Symbol.one, Symbol.reset])
    (h : p.afterTick = some q) : 1 ≤ q.ticksLeft ∧ q.symbol ∈ [Symbol.zero, Symbol.one, Symbol.reset] := by
  obtain ⟨sym, half, n⟩ := p
  obtain ⟨-, hsym⟩ := hp
  simp only [Shift.afterTick] at h
  split at h
  · cases h
    exact ⟨by dsimp only; omega, hsym⟩
  · cases half <;> cases h
    exact ⟨(Symbol.durations_pos hsym).2, hsym⟩

namespace State.Inv

variable {s : State}

/-! ## The parts of an operation -/

/-- The fields the invariant does not speak of may change. -/
theorem unrelated (h : s.Inv) {usedCount : Fin 257} {halted txUnderrun : Bool} {response : Option Response}
    {pullResponse : Option PullResponse} {events : List Event} {calls : List Call} {wire : List Symbol}
    {wave : List Segment} {cmdWords : List Word} {turns : List Turn} {answers : List Answer} {drawn : Nat} :
    State.Inv
      { s with
        usedCount := usedCount, halted := halted, txUnderrun := txUnderrun, response := response
        pullResponse := pullResponse, events := events, calls := calls, wire := wire, wave := wave
        cmdWords := cmdWords, turns := turns, answers := answers, drawn := drawn } :=
  { h with }

/-- An operation may end at any time. -/
theorem hostIdle (h : s.Inv) : State.Inv { s with host := .idle } :=
  { h with initFirst := fun hi => ⟨(h.initFirst hi).1, rfl⟩ }

/-- Only an initialised HOST waits (R182). -/
theorem hostWaits (h : s.Inv) (hinit : s.initialized = true) (leds : Fin 257) :
    State.Inv { s with host := .waiting leds } :=
  { h with initFirst := fun hi => nomatch hinit.symm.trans hi }

theorem withPixels (h : s.Inv) {m : Memory} (hm : m.wf) : State.Inv { s with pixels := m } :=
  { h with memory := hm }

theorem hostWrite (h : s.Inv) (w : HostWrite) : (s.hostWrite w).Inv := by
  cases w with
  | byte a v => exact h.withPixels (State.storeByte_wf h.memory a v)
  | used i => exact h.unrelated

/-- The issue of a transmission while none is in flight: nothing is in the ring that was not counted for it (R188). -/
theorem issue (h : s.Inv) (hinit : s.initialized = true) (hidle : s.txInFlight = false) (leds : Fin 257) :
    (s.issue leds).Inv :=
  { h with
    quietWhenIdle := nofun
    initFirst := fun hi => nomatch hinit.symm.trans hi
    counted := by rw [State.issue_ring, (h.quietWhenIdle hidle).1]; exact Nat.le_refl 0
    wholeBytes := fun _ => ⟨⟨0, rfl⟩, Nat.zero_le _⟩
    doneCount := nofun }

/-! ## The agents -/

/-- A PULL that pushes into the room there is, in a transmission in flight. -/
theorem push (h : s.Inv) (hf : s.txInFlight = true) {syms : List Symbol} {done : Bool} {r : Option PullResponse}
    (hroom : syms.length ≤ s.room) (hcanonical : ∀ sym ∈ syms, sym ∈ [Symbol.zero, Symbol.one, Symbol.reset])
    (hwhole : done = false →
      8 ∣ s.symbolsWritten + syms.length ∧ s.symbolsWritten + syms.length ≤ 8 * s.txLength.val)
    (hlast : done = true → s.symbolsWritten + syms.length = 8 * s.txLength.val + 1) :
    State.Inv
      { s with
        ring := s.ring ++ syms
        symbolsWritten := s.symbolsWritten + syms.length
        txDone := done
        pullResponse := r } := by
  have hcap : (s.ring ++ syms).length ≤ s.channel.blockSymbols := by
    have := h.capacity
    rw [State.room] at hroom
    rw [List.length_append]
    omega
  exact
    { h with
      capacity := hcap
      quietWhenIdle := fun hidle => nomatch hf.symm.trans hidle
      counted := by rw [List.length_append]; exact Nat.add_le_add_right h.counted _
      wholeBytes := hwhole
      doneCount := hlast
      ringCanonical := fun sym hs => (List.mem_append.1 hs).elim (h.ringCanonical sym) (hcanonical sym) }

theorem pull (h : s.Inv) (free : Nat) : (s.pull free).Inv := by
  rcases s.pull_cases free with ⟨-, heq⟩ | ⟨-, -, heq⟩ | ⟨hen, hroom, hlt, heq⟩ | ⟨hen, hroom, hge, heq⟩
  · rwa [heq]
  · rw [heq]
    exact h.unrelated
  all_goals
    obtain ⟨hf, hd, -⟩ := s.pullEnabled_iff.1 hen
    obtain ⟨⟨k, hk⟩, hle⟩ := h.wholeBytes hd
    rw [heq]
  · refine h.push hf (syms := Symbol.ofByte _) (by rw [Symbol.ofByte_length]; omega) (Symbol.ofByte_canonical _)
      (fun _ => ⟨⟨k + 1, ?_⟩, ?_⟩) fun hdone => nomatch hd.symm.trans hdone
    · rw [Symbol.ofByte_length]; omega
    · rw [Symbol.ofByte_length]; omega
  · refine h.push hf (syms := [Symbol.reset]) (by rw [List.length_singleton]; omega) (by simp) nofun fun _ => ?_
    rw [List.length_singleton]
    omega

theorem shiftNext (h : s.Inv) : s.shiftNext.Inv := by
  rcases s.shiftNext_cases with ⟨-, heq⟩ | ⟨sym, rest, -, hr, heq⟩
  · rwa [heq]
  · have hsym := h.ringCanonical sym (by rw [hr]; exact List.mem_cons_self)
    have hlen : rest.length ≤ s.ring.length := by rw [hr, List.length_cons]; exact Nat.le_succ _
    have hbusy : s.txInFlight ≠ false := fun hidle => nomatch hr.symm.trans (h.quietWhenIdle hidle).1
    rw [heq]
    exact
      { h with
        capacity := Nat.le_trans hlen h.capacity
        quietWhenIdle := fun hidle => absurd hidle hbusy
        counted := Nat.le_trans hlen h.counted
        pinDriven := rfl
        shiftLives := fun p hp => by cases hp; exact ⟨(Symbol.durations_pos hsym).1, hsym⟩
        ringCanonical := fun x hx => h.ringCanonical x (by rw [hr]; exact List.mem_cons_of_mem _ hx) }

theorem passTick (h : s.Inv) : s.passTick.Inv := by
  rcases s.passTick_cases with ⟨p, hp, heq⟩ | ⟨hs, heq⟩ <;> rw [heq]
  · exact
      { h with
        quietWhenIdle := fun hidle => nomatch hp.symm.trans (h.quietWhenIdle hidle).2
        pinDriven := rfl
        shiftLives := fun _ hq => Shift.afterTick_lives (h.shiftLives p hp) hq }
  · exact { h with pinDriven := (congrArg pinLevel hs).symm }

theorem tick (h : s.Inv) : s.tick.Inv := by
  unfold State.tick
  split_ifs
  · exact h.shiftNext.passTick
  · exact h.passTick
  · exact h

theorem complete (h : s.Inv) : s.complete.Inv := by
  rcases s.complete_cases with ⟨-, heq⟩ | ⟨hen, heq⟩ <;> rw [heq]
  · exact h
  · obtain ⟨-, -, hr, hs, -⟩ := s.completeEnabled_iff.1 hen
    exact { h with quietWhenIdle := fun _ => ⟨hr, hs⟩, initFirst := fun hi => ⟨rfl, (h.initFirst hi).2⟩ }

theorem move (h : s.Inv) (m : Move) : (s.move m).Inv := by
  cases m with
  | pull free => exact h.pull free
  | shift => exact h.shiftNext
  | tick => exact h.tick
  | complete => exact h.complete

theorem takeTurn (h : s.Inv) : s.takeTurn.2.Inv := by
  rcases s.takeTurn_cases with ⟨_, _, -, heq⟩ | ⟨-, heq⟩ <;> rw [heq] <;> exact h.unrelated

/-! ## INIT -/

/-- A call of INIT that fails leaves a block that is not initialised, whatever was configured (R180). -/
theorem withChannel (h : s.Inv) (hinit : s.initialized = false) (c : Channel) : State.Inv { s with channel := c } := by
  obtain ⟨hidle, -⟩ := h.initFirst hinit
  obtain ⟨hr, -⟩ := h.quietWhenIdle hidle
  exact
    { h with
      capacity := by rw [hr]; exact Nat.zero_le _
      configured := fun hi => nomatch hinit.symm.trans hi }

/-- What INIT has brought up before its CLEAR_ALL (R180). -/
theorem started (h : s.Inv) (hinit : s.initialized = false) {c : Channel} (hc : c.configured) :
    State.Inv { s with ring := [], pin := .low, txInFlight := false, initialized := true, channel := c } := by
  obtain ⟨hidle, -⟩ := h.initFirst hinit
  obtain ⟨-, hs⟩ := h.quietWhenIdle hidle
  exact
    { h with
      capacity := Nat.zero_le _
      quietWhenIdle := fun _ => ⟨rfl, hs⟩
      initFirst := nofun
      configured := fun _ => hc
      counted := Nat.zero_le _
      pinDriven := (congrArg pinLevel hs).symm
      ringCanonical := nofun }

end State.Inv

/-! ## Operations and steps -/

theorem kept_inv : Kept State.Inv where
  draw _ h := h.takeTurn
  move _ m h := h.move m
  write _ w h := h.hostWrite w
  emit _ _ h := h.unrelated
  respond _ _ _ h := h.hostIdle.unrelated
  halt _ h := h.hostIdle.unrelated
  answerPull _ _ _ h := h.unrelated
  port _ _ h := h.unrelated

/-- The invariant of an initialised block, which is what a FLUSH needs to wait. -/
theorem flushKept_inv : FlushKept fun s => s.Inv ∧ s.initialized = true where
  call _ _ h := ⟨h.1.unrelated, h.2⟩
  answer s h := by rw [s.takeAnswer_eq]; exact ⟨h.1.unrelated, h.2⟩
  wait _ leds h := ⟨(h.1.hostWaits h.2 leds).unrelated, h.2⟩
  issue _ leds hidle h := ⟨h.1.issue h.2 hidle leds, h.2⟩

theorem setUsed_keeps_inv (s : State) (n : Fin 257) (h : s.Inv ∧ s.initialized = true) :
    (s.setUsed n).Inv ∧ (s.setUsed n).initialized = true :=
  ⟨h.1.unrelated, h.2⟩

theorem State.Inv.initialise {s : State} (h : s.Inv) (hinit : s.initialized = false) : s.initialise.Inv := by
  rcases s.initialise_cases with ⟨c, _, _, _, _, heq⟩ | ⟨_, _, _, heq⟩ <;> rw [heq]
  · exact kept_inv.halt _ (kept_inv.emit _ _ (h.withChannel hinit c).unrelated)
  · exact ((kept_inv.and kept_initialized).clearAll flushKept_inv setUsed_keeps_inv
      ⟨(h.started hinit rfl).unrelated, rfl⟩).1

/-- Before INIT an operation either is INIT, or contains no FLUSH that runs. -/
theorem State.Inv.exec_of_fresh {s t : State} (h : s.Inv) (hinit : s.initialized = false) {i : Instr}
    (he : exec i s = .next t) : t.Inv := by
  by_cases hi : i = .init
  · subst hi
    simp only [exec, execInit, hinit, Bool.false_eq_true, if_false] at he
    split at he <;> cases he
    exact h.initialise hinit
  · exact kept_inv.exec h he (fun hready => nomatch hready.symm.trans hinit) (fun _ _ _ h => h.unrelated)
      fun hi' => absurd hi' hi

/-- Settles O53: after INIT by the parts of its operations, before it because nothing is on its way to the wire. -/
theorem stepKeepsTheInvariant : Obligations.StepKeepsTheInvariant := by
  intro s t h he
  cases hinit : s.initialized with
  | true =>
    exact ((kept_inv.and kept_initialized).step ⟨h, hinit⟩ he hinit flushKept_inv setUsed_keeps_inv).1
  | false =>
    obtain ⟨-, hidle⟩ := h.initFirst hinit
    obtain ⟨-, ⟨leds, hw, -⟩ | ⟨i, rest, -, -, hexec⟩ | ⟨_, -, -, rfl⟩⟩ := step_cases he
    · exact nomatch hidle.symm.trans hw
    · exact (kept_inv.port _ rest (kept_inv.agentsTurn h)).exec_of_fresh
        (s.agentsTurn_agentsOnly.initialized.trans hinit) hexec
    · exact kept_inv.agentsTurn h

/-- Settles O52: the reset values, field by field. -/
theorem resetMeetsTheInvariant : Obligations.ResetMeetsTheInvariant := by
  refine ⟨?_, rfl, rfl, rfl, rfl, rfl, rfl, rfl, rfl⟩
  exact ⟨Memory.wf_nil, Nat.zero_le _, fun _ => ⟨rfl, rfl⟩, fun _ => ⟨rfl, rfl⟩, nofun, Nat.zero_le _,
    fun _ => ⟨⟨0, rfl⟩, Nat.zero_le _⟩, nofun, rfl, nofun, nofun⟩

end Sys2Proof.Machine
end

section
/-! PROOFS. SET, GET and the zeroing of CLEAR_ALL (40_pixel_buffer.md), on the buffer and at the port. -/

namespace Sys2Proof.Machine

/-! ## SET -/

/-- The whole effect of a SET in range: the LED, the high-water mark and the response, beside what the agents write.
-/
theorem exec_set_inRange {s : State} (hh : s.halted = false) (hinit : s.initialized = true) (h : s.pixels.wf)
    {index : BitVec 24} (hi : index.toNat < 256) (r g b : Byte) :
    ∃ u, AgentsOnly s u ∧ (s.quiet = true → u = s) ∧
      exec (.set index r g b) s =
        .next { u with
          pixels := storeLed s.pixels index.toNat ⟨r, g, b⟩
          usedCount := advanceCount ⟨index.toNat, hi⟩ s.usedCount
          response := some ⟨.ok, none⟩
          host := .idle } := by
  obtain ⟨u, hu, hquiet, hset⟩ := State.setLed_inRange h hi ⟨r, g, b⟩
  exact ⟨u, hu, hquiet, by rw [exec_set_of_ready hh hinit, hset]; rfl⟩

/-- Settles O13: the statement is the whole effect of a SET. -/
theorem setChangesNothingElse : Obligations.SetChangesNothingElse :=
  fun _ _ r g b hh hinit h hi => exec_set_inRange hh hinit h hi r g b

/-- Settles O11: read off the whole effect of a SET. -/
theorem setRaisesTheHighWaterMark : Obligations.SetRaisesTheHighWaterMark := by
  intro s index r g b hh hinit h hi
  obtain ⟨u, -, -, hexec⟩ := exec_set_inRange hh hinit h hi r g b
  exact ⟨_, hexec, advanceCount_val _ _, rfl⟩

/-- Settles O12: an index out of range is only logged. -/
theorem setOutOfRangeIsANoOp : Obligations.SetOutOfRangeIsANoOp := by
  intro s index r g b hh hinit hi
  rw [exec_set_of_ready hh hinit, State.setLed_outOfRange s hi]
  rfl

/-! ## GET -/

theorem State.getLed_inRange (s : State) {index : Nat} (hi : index < 256) :
    s.getLed index = s.respond .ok (some (getData s.pixels index)) :=
  if_pos hi

theorem State.getLed_outOfRange (s : State) {index : Nat} (hi : 256 ≤ index) : s.getLed index = s.respond .error none :=
  if_neg (Nat.not_lt.2 hi)

/-- Settles O14: on both sides of the range. -/
theorem getAnswersTheStoredBytes : Obligations.GetAnswersTheStoredBytes := by
  intro s index hh hinit
  rw [exec_get_of_ready hh hinit]
  refine ⟨fun hi => ?_, fun hi => ?_⟩
  · rw [State.getLed_inRange s hi]
    rfl
  · rw [State.getLed_outOfRange s hi]
    rfl

/-- The data word of a LED just stored: its colour in wire order. -/
theorem getData_storeLed {m : Memory} (h : m.wf) {i : Nat} (hi : i < maxLeds) (c : Colour) :
    getData (storeLed m i c) i = packWord 0 c.green c.red c.blue := by
  simp [getData, storeLed_read h hi]

/-- GET of a LED that was stored last. -/
theorem exec_get_of_stored {t : State} (hh : t.halted = false) (hinit : t.initialized = true) {m : Memory} (h : m.wf)
    {index : BitVec 24} (hi : index.toNat < 256) {c : Colour} (hp : t.pixels = storeLed m index.toNat c) :
    exec (.get index) t =
      .next { t with response := some ⟨.ok, some (packWord 0 c.green c.red c.blue)⟩, host := .idle } := by
  have hdata : getData t.pixels index.toNat = packWord 0 c.green c.red c.blue := by rw [hp, getData_storeLed h hi]
  rw [exec_get_of_ready hh hinit, State.getLed_inRange t hi, hdata]
  rfl

/-- Settles O15: what GET reads is the LED that SET stored. -/
theorem setThenGetAnswersGreenRedBlue : Obligations.SetThenGetAnswersGreenRedBlue := by
  intro s index r g b hh hinit h hi
  obtain ⟨u, hu, -, hexec⟩ := exec_set_inRange hh hinit h hi r g b
  refine ⟨_, hexec, exec_get_of_stored ?_ ?_ h hi (c := ⟨r, g, b⟩) rfl⟩
  · exact hu.halted.trans hh
  · exact hu.initialized.trans hinit

/-! ## A PULL after a SET -/

theorem storeLed_read_green {m : Memory} (h : m.wf) {i : Nat} (hi : i < maxLeds) (c : Colour) :
    (storeLed m i c).read (3 * i) = c.green :=
  (storeLed_read h hi c _).trans (if_pos rfl)

/-- A PULL with room for a byte, at a byte of the transmission, pushes that byte's symbols. -/
theorem State.pull_ring_of_byte {s : State} {free : Nat} (hen : s.pullEnabled = true) (hfree : 8 ≤ free)
    (hroom : 8 ≤ s.room) (hlt : s.symbolsWritten / 8 < s.txLength.val) :
    (s.pull free).ring = s.ring ++ Symbol.ofByte (s.pixels.read (s.symbolsWritten / 8)) := by
  rcases s.pull_cases free with ⟨hdis, -⟩ | ⟨-, hno, -⟩ | ⟨-, -, -, heq⟩ | ⟨-, -, hge, -⟩
  · exact nomatch hen.symm.trans hdis
  · omega
  · rw [heq]
  · omega

/-- Settles O42: the PULL reads the byte that the SET stored. -/
theorem pullReadsTheLiveBuffer : Obligations.PullReadsTheLiveBuffer := by
  intro s t index r g b free hh hinit h hi hset hf hd hw hlen hfree hroom
  obtain ⟨u, hu, -, hexec⟩ := exec_set_inRange hh hinit h hi r g b
  have ht := Host.Outcome.next.inj (hset.symm.trans hexec)
  have hhalted : t.halted = false := by rw [ht]; exact hu.halted.trans hh
  have hpixels : t.pixels = storeLed s.pixels index.toNat ⟨r, g, b⟩ := by rw [ht]
  have hen : t.pullEnabled = true := t.pullEnabled_iff.2 ⟨hf, hd, hhalted⟩
  rw [State.pull_ring_of_byte hen hfree hroom (by omega), hw, hpixels, storeLed_read_green h hi]

/-! ## The zeroing of CLEAR_ALL -/

theorem State.hostWrites_clear_pixels {s : State} (h : s.pixels.wf) : (s.hostWrites clearWrites).pixels = [] := by
  obtain ⟨u, n, -, -, heq⟩ := State.hostWrites_clear h
  rw [heq]

/-- Where nothing is on its way to the wire the zeroing changes the buffer and `used_count` alone. -/
theorem State.hostWrites_clear_of_quiet {s : State} (h : s.pixels.wf) (hq : s.quiet = true) (n : Fin 257) :
    (s.hostWrites clearWrites).setUsed n = { s with pixels := [], usedCount := n } := by
  obtain ⟨u, k, -, hu, heq⟩ := State.hostWrites_clear h
  rw [heq, hu hq]
  rfl

/-- Settles O16: the FLUSH inside CLEAR_ALL writes neither the buffer nor `used_count`. -/
theorem clearAllZeroesTheBuffer : Obligations.ClearAllZeroesTheBuffer := by
  intro s hh hinit h
  have hflush := ((s.hostWrites clearWrites).setUsed Config.defaultLedCount).flush_frame Config.defaultLedCount.val
  refine ⟨_, exec_clearAll_of_ready hh hinit, fun a => ?_, hflush.usedCount⟩
  rw [State.clearAll, hflush.pixels, State.setUsed_pixels, State.hostWrites_clear_pixels h]
  rfl

theorem storeLed_black (i : Nat) : storeLed [] i ⟨0, 0, 0⟩ = [] := rfl

theorem advanceCount_next {k : Nat} (hk : k < 256) : advanceCount ⟨k, hk⟩ ⟨k, by omega⟩ = ⟨k + 1, by omega⟩ :=
  Fin.ext (by rw [advanceCount_val]; exact Nat.max_eq_right (Nat.le_succ k))

/-- R139: black LEDs set in order over a zero buffer only count. -/
theorem State.setLeds_black {s : State} (hp : s.pixels = []) (hq : s.quiet = true) {n : Nat} (hn : n < 257) :
    (List.range n).foldl (fun u k => u.setLed k ⟨0, 0, 0⟩) (s.setUsed 0) = s.setUsed ⟨n, hn⟩ := by
  induction n with
  | zero => rfl
  | succ n ih =>
    have hwf : (s.setUsed ⟨n, by omega⟩).pixels.wf := by rw [State.setUsed_pixels, hp]; exact Memory.wf_nil
    obtain ⟨u, -, hu, hset⟩ := State.setLed_inRange hwf (show n < 256 by omega) ⟨0, 0, 0⟩
    rw [List.range_succ, List.foldl_append, ih (by omega), List.foldl_cons, List.foldl_nil, hset, hu hq,
      State.setUsed_pixels, State.setUsed_usedCount, advanceCount_next, hp, storeLed_black, ← hp]
    rfl

/-- Settles O18: the zeroed block is still quiet, so the SETs only count to `DEFAULT_LED_COUNT`. -/
theorem clearAllSetsAgreeWithAssignment : Obligations.ClearAllSetsAgreeWithAssignment := by
  intro s h hq
  obtain ⟨u, n, -, hu, heq⟩ := State.hostWrites_clear h
  rw [hu hq] at heq
  rw [heq]
  exact State.setLeds_black (s := { s with pixels := [], usedCount := n }) rfl hq Config.defaultLedCount.isLt

end Sys2Proof.Machine
end

section
/-! PROOFS. FLUSH, its wait, and CLEAR_ALL and INIT around it (43_tx_driver.md, 40_pixel_buffer.md): each outcome of
the two calls, at the port, in a waiting step and after the stores of an operation. -/

namespace Sys2Proof.Machine

/-! ## Counts and their calls -/

theorem not_accepted_of_rejected {leds : Fin 257} (h : leds = 0 ∧ Config.zeroLengthTx = .fault) :
    ¬ (leds ≠ 0 ∨ Config.zeroLengthTx = .resetOnly) := by
  rintro (hne | hparam)
  · exact hne h.1
  · exact nomatch hparam.symm.trans h.2

/-- R190: the platform can accept a `transmit` of some bytes, and of none where the parameter says so. -/
theorem Call.transmit_accepted {leds : Fin 257} (h : leds ≠ 0 ∨ Config.zeroLengthTx = .resetOnly) :
    (Call.transmit (bytesOfLeds leds).val).rejected = false := by
  rw [Bool.eq_false_iff, ne_eq, Call.transmit_rejected]
  exact fun hrejected => not_accepted_of_rejected hrejected h

/-- The parameter has two values: a `transmit` is accepted, or it is one of no bytes that the platform rejects. -/
theorem transmit_accepted_or_not (leds : Fin 257) :
    (leds ≠ 0 ∨ Config.zeroLengthTx = .resetOnly) ∨ (leds = 0 ∧ Config.zeroLengthTx = .fault) := by
  cases Config.zeroLengthTx with
  | resetOnly => exact .inl (.inr rfl)
  | fault => exact (em (leds = 0)).elim (fun h => .inr ⟨h, rfl⟩) fun h => .inl (.inl h)

theorem clampCount_eq_zero {count : Nat} {used : Fin 257} (h : min count used.val = 0) : clampCount count used = 0 :=
  Fin.ext h

theorem clampCount_ne_zero {count : Nat} {used : Fin 257} (h : min count used.val ≠ 0) : clampCount count used ≠ 0 :=
  fun hz => h (congrArg Fin.val hz)

/-- R137: CLEAR_ALL flushes as many LEDs as it leaves in use. -/
theorem clampCount_self (n : Fin 257) : clampCount n.val n = n :=
  Fin.ext (Nat.min_self _)

/-! ## FLUSH at the port -/

/-- Settles O23: the two calls are answered `ok`, and the count is not 0. -/
theorem flushIssuesTheClampedCount : Obligations.FlushIssuesTheClampedCount := by
  intro s count rest hh hinit hf ha hmin
  have hflush := State.flush_issues ha hf count.toNat (Call.transmit_accepted (.inl (clampCount_ne_zero hmin)))
  exact ⟨_, (exec_flush_of_ready hh hinit count).trans (congrArg _ hflush), rfl, rfl⟩

/-- Settles O24: the clamped count is 0, so the parameter decides whether the platform accepts. -/
theorem flushOfNoLedsFollowsTheParameter : Obligations.FlushOfNoLedsFollowsTheParameter := by
  intro s count rest hh hinit hf ha hmin
  have hzero := clampCount_eq_zero hmin
  rw [exec_flush_of_ready hh hinit count]
  refine ⟨fun hparam => ?_, fun hparam => ?_⟩
  · rw [State.flush_issues ha hf count.toNat (Call.transmit_accepted (.inr hparam)), hzero]
    rfl
  · rw [State.flush_of_fail ha hf count.toNat (.inr ((Call.transmit_rejected _).2 ⟨hzero, hparam⟩)), hzero]
    rfl

/-- Settles O25: the wait is looked at once and goes on. -/
theorem flushWaitsForTheTransmissionInFlight : Obligations.FlushWaitsForTheTransmissionInFlight := by
  intro s count rest hh hinit hf ha
  exact ⟨clampCount count.toNat s.usedCount, rfl,
    (exec_flush_of_ready hh hinit count).trans (congrArg _ (State.flush_of_inFlight ha hf _))⟩

/-- Settles O27: for each of the two calls. -/
theorem flushHaltsWhenACallFails : Obligations.FlushHaltsWhenACallFails := by
  intro s count rest hh hinit
  rw [exec_flush_of_ready hh hinit count]
  refine ⟨fun ha => ?_, fun hf ha => ?_⟩
  · rw [State.flush_of_waitFail ha]
  · rw [State.flush_of_fail ha hf count.toNat (.inl rfl)]
    rfl

/-! ## A look at the wait (R187) -/

/-- The wait is over, and the issue is accepted. -/
theorem State.awaitDone_issues {s : State} {rest : List Answer} (ha : s.answers = .ok :: .ok :: rest)
    (hf : s.txInFlight = false) {leds : Fin 257} (hr : leds ≠ 0 ∨ Config.zeroLengthTx = .resetOnly) :
    s.awaitDone leds =
      { s with
        txLength := bytesOfLeds leds
        symbolsWritten := 0
        txDone := false
        txInFlight := true
        response := some ⟨.ok, none⟩
        host := .idle
        calls := s.calls ++ [.transmit (3 * leds.val)]
        answers := rest } := by
  rw [State.awaitDone_of_ok ha hf, State.transmit_of_ok rfl leds (Call.transmit_accepted hr)]
  rfl

/-- The wait is over, and the issue fails. -/
theorem State.awaitDone_halts {s : State} {a : Answer} {rest : List Answer} (ha : s.answers = .ok :: a :: rest)
    (hf : s.txInFlight = false) {leds : Fin 257} (hr : a = .fail ∨ (leds = 0 ∧ Config.zeroLengthTx = .fault)) :
    s.awaitDone leds =
      { s with
        events := s.events ++ [.hardwareFault .transmit]
        halted := true
        response := none
        host := .idle
        calls := s.calls ++ [.transmit (3 * leds.val)]
        answers := rest } := by
  rw [State.awaitDone_of_ok ha hf,
    State.transmit_of_fail rfl leds (hr.imp_right (Call.transmit_rejected leds).2)]
  rfl

/-- The step of a waiting HOST, as a look in the state `u` the agents' turn leaves, with what that turn does not
write. -/
theorem step_of_waiting_agentsOnly {s : State} {leds : Fin 257} (hh : s.halted = false) (hw : s.host = .waiting leds) :
    ∃ u, s.agentsTurn = u ∧ AgentsOnly s u ∧ step s = .next (u.awaitDone leds) :=
  ⟨_, rfl, s.agentsTurn_agentsOnly, step_of_waiting hh hw⟩

/-- Settles O26: one look at the wait after the agents' turn, which leaves the answers, the calls and the events. -/
theorem waitingFlushIssuesAfterCompletion : Obligations.WaitingFlushIssuesAfterCompletion := by
  intro s leds hh hw
  obtain ⟨u, hturn, hu, hstep⟩ := step_of_waiting_agentsOnly hh hw
  rw [hturn, hstep, ← hu.calls, ← hu.events, ← hu.answers]
  refine ⟨fun rest ha hf => ?_, fun rest ha hf hne => ?_, fun rest ha hf hzero => ⟨fun hparam => ?_, fun hparam => ?_⟩⟩
  · rw [State.awaitDone_of_inFlight ha hf, State.wait, ← hu.host.trans hw]
  · rw [State.awaitDone_issues ha hf (.inl hne)]
  · rw [State.awaitDone_issues ha hf (.inr hparam), hzero]
    rfl
  · rw [State.awaitDone_halts ha hf (.inr ⟨hzero, hparam⟩), hzero]
    rfl

/-- Settles O57: the look fails at its own call, or at the `transmit` after it. -/
theorem waitingFlushHaltsWhenACallFails : Obligations.WaitingFlushHaltsWhenACallFails := by
  intro s leds rest hh hw
  obtain ⟨u, hturn, hu, hstep⟩ := step_of_waiting_agentsOnly hh hw
  rw [hturn, hstep, ← hu.calls, ← hu.events, ← hu.answers]
  refine ⟨fun ha => ?_, fun hf ha => ?_⟩
  · rw [State.awaitDone_of_fail ha]
  · rw [State.awaitDone_halts ha hf (.inl rfl)]

/-! ## The FLUSH after the stores of an operation -/

/-- The stores an operation makes before its FLUSH have led from `s` to `w`: what they left, and that neither they nor
the agents beside them made a call or drew an answer. -/
structure Stored (s w : State) (m : Memory) (used : Fin 257) (events : List Event) : Prop where
  pixels : w.pixels = m
  usedCount : w.usedCount = used
  events : w.events = events
  calls : w.calls = s.calls
  answers : w.answers = s.answers

namespace Stored

variable {s w : State} {m : Memory} {used : Fin 257} {events : List Event} {rest : List Answer}

theorem flush_waits (h : Stored s w m used events) (ha : s.answers = .ok :: rest) (hf : w.txInFlight = true)
    {count : Nat} {leds : Fin 257} (hleds : clampCount count used = leds) :
    w.flush count =
      { w with
        pixels := m
        usedCount := used
        events := events
        host := .waiting leds
        response := none
        calls := s.calls ++ [.waitAllDone]
        answers := rest } := by
  obtain ⟨rfl, rfl, rfl, hcalls, hanswers⟩ := h
  subst hleds
  rw [State.flush_of_inFlight (hanswers.trans ha) hf, hcalls]

theorem flush_issues (h : Stored s w m used events) (ha : s.answers = .ok :: .ok :: rest) (hf : w.txInFlight = false)
    {count : Nat} {leds : Fin 257} (hleds : clampCount count used = leds)
    (hr : leds ≠ 0 ∨ Config.zeroLengthTx = .resetOnly) :
    w.flush count =
      { w with
        pixels := m
        usedCount := used
        events := events
        txLength := bytesOfLeds leds
        symbolsWritten := 0
        txDone := false
        txInFlight := true
        response := some ⟨.ok, none⟩
        host := .idle
        calls := s.calls ++ [.waitAllDone, .transmit (3 * leds.val)]
        answers := rest } := by
  obtain ⟨rfl, rfl, rfl, hcalls, hanswers⟩ := h
  subst hleds
  rw [State.flush_issues (hanswers.trans ha) hf count (Call.transmit_accepted hr), hcalls]
  rfl

theorem flush_waitFails (h : Stored s w m used events) (ha : s.answers = .fail :: rest) (count : Nat) :
    w.flush count =
      { w with
        pixels := m
        usedCount := used
        events := events ++ [.hardwareFault .waitAllDone]
        halted := true
        response := none
        host := .idle
        calls := s.calls ++ [.waitAllDone]
        answers := rest } := by
  obtain ⟨rfl, rfl, rfl, hcalls, hanswers⟩ := h
  rw [State.flush_of_waitFail (hanswers.trans ha), hcalls]

theorem flush_transmitFails (h : Stored s w m used events) {a : Answer} (ha : s.answers = .ok :: a :: rest)
    (hf : w.txInFlight = false) {count : Nat} {leds : Fin 257} (hleds : clampCount count used = leds)
    (hr : a = .fail ∨ (leds = 0 ∧ Config.zeroLengthTx = .fault)) :
    w.flush count =
      { w with
        pixels := m
        usedCount := used
        events := events ++ [.hardwareFault .transmit]
        halted := true
        response := none
        host := .idle
        calls := s.calls ++ [.waitAllDone, .transmit (3 * leds.val)]
        answers := rest } := by
  obtain ⟨rfl, rfl, rfl, hcalls, hanswers⟩ := h
  subst hleds
  rw [State.flush_of_fail (hanswers.trans ha) hf count (hr.imp_right (Call.transmit_rejected _).2), hcalls]
  rfl

end Stored

/-! ## CLEAR_ALL -/

/-- The stores of CLEAR_ALL: its zeroing and the assignment of `used_count`. -/
theorem stored_clear {s : State} (h : s.pixels.wf) :
    Stored s ((s.hostWrites clearWrites).setUsed Config.defaultLedCount) [] Config.defaultLedCount s.events := by
  obtain ⟨u, n, hu, -, heq⟩ := State.hostWrites_clear h
  rw [heq]
  exact ⟨rfl, rfl, hu.events, hu.calls, hu.answers⟩

theorem State.hostWrites_clear_events {s : State} (h : s.pixels.wf) : (s.hostWrites clearWrites).events = s.events :=
  (stored_clear h).events

/-- Settles O58: the four outcomes of the FLUSH after the zeroing. -/
theorem clearAllMeetsATransmissionInFlight : Obligations.ClearAllMeetsATransmissionInFlight := by
  intro s rest hh hinit h
  have hstored := stored_clear h
  have hleds := clampCount_self Config.defaultLedCount
  rw [exec_clearAll_of_ready hh hinit, State.clearAll]
  refine ⟨fun hf ha => ?_, fun hf ha hr => ?_, fun ha => ?_, fun a hf ha hr => ?_⟩
  · rw [hstored.flush_waits ha hf hleds, ← State.hostWrites_clear_events h]
    rfl
  · rw [hstored.flush_issues ha hf hleds hr, ← State.hostWrites_clear_events h]
    rfl
  · rw [hstored.flush_waitFails ha]
    rfl
  · rw [hstored.flush_transmitFails ha hf hleds hr]
    rfl

/-- The stores of CLEAR_ALL where nothing is on its way to the wire. -/
theorem stored_clear_of_quiet (s : State) :
    Stored s { s with pixels := [], usedCount := Config.defaultLedCount } [] Config.defaultLedCount s.events :=
  ⟨rfl, rfl, rfl, rfl, rfl⟩

/-- R136 where nothing is on its way to the wire: zero, count, FLUSH. -/
theorem State.clearAll_of_quiet {s : State} (h : s.pixels.wf) (hq : s.quiet = true) :
    s.clearAll =
      State.flush { s with pixels := [], usedCount := Config.defaultLedCount } Config.defaultLedCount.val := by
  rw [State.clearAll, State.hostWrites_clear_of_quiet h hq]

/-- CLEAR_ALL in a quiet block, its two calls answered `ok` and its issue accepted. -/
theorem State.clearAll_issues {s : State} {rest : List Answer} (h : s.pixels.wf) (hq : s.quiet = true)
    (ha : s.answers = .ok :: .ok :: rest) (hr : Config.defaultLedCount ≠ 0 ∨ Config.zeroLengthTx = .resetOnly) :
    s.clearAll =
      { s with
        pixels := []
        usedCount := Config.defaultLedCount
        txLength := bytesOfLeds Config.defaultLedCount
        symbolsWritten := 0
        txDone := false
        txInFlight := true
        response := some ⟨.ok, none⟩
        host := .idle
        calls := s.calls ++ [.waitAllDone, .transmit (3 * Config.defaultLedCount.val)]
        answers := rest } := by
  rw [State.clearAll_of_quiet h hq,
    (stored_clear_of_quiet s).flush_issues ha (s.quiet_iff.1 hq).1 (clampCount_self _) hr]

/-- CLEAR_ALL in a quiet block whose wait fails. -/
theorem State.clearAll_waitFails {s : State} {rest : List Answer} (h : s.pixels.wf) (hq : s.quiet = true)
    (ha : s.answers = .fail :: rest) :
    s.clearAll =
      { s with
        pixels := []
        usedCount := Config.defaultLedCount
        events := s.events ++ [.hardwareFault .waitAllDone]
        halted := true
        response := none
        host := .idle
        calls := s.calls ++ [.waitAllDone]
        answers := rest } := by
  rw [State.clearAll_of_quiet h hq, (stored_clear_of_quiet s).flush_waitFails ha]

/-- CLEAR_ALL in a quiet block whose issue fails. -/
theorem State.clearAll_transmitFails {s : State} {a : Answer} {rest : List Answer} (h : s.pixels.wf)
    (hq : s.quiet = true) (ha : s.answers = .ok :: a :: rest)
    (hr : a = .fail ∨ (Config.defaultLedCount = 0 ∧ Config.zeroLengthTx = .fault)) :
    s.clearAll =
      { s with
        pixels := []
        usedCount := Config.defaultLedCount
        events := s.events ++ [.hardwareFault .transmit]
        halted := true
        response := none
        host := .idle
        calls := s.calls ++ [.waitAllDone, .transmit (3 * Config.defaultLedCount.val)]
        answers := rest } := by
  rw [State.clearAll_of_quiet h hq,
    (stored_clear_of_quiet s).flush_transmitFails ha (s.quiet_iff.1 hq).1 (clampCount_self _) hr]

/-- Settles O17: in a quiet block the black frame is issued, or its issue of no bytes fails. -/
theorem clearAllIssuesTheBlackFrame : Obligations.ClearAllIssuesTheBlackFrame := by
  intro s rest hh hinit h hq ha
  rw [exec_clearAll_of_ready hh hinit]
  refine ⟨fun hr => ?_, fun hr => ?_⟩
  · rw [State.clearAll_issues h hq ha hr]
  · rw [State.clearAll_transmitFails h hq ha (.inr hr), hr.1]
    rfl

/-! ## INIT: its three own calls, one by one, and the CLEAR_ALL after them (R180) -/

/-- What a failed call leaves (R233). -/
def State.callFails (s : State) (c : Call) (rest : List Answer) : State :=
  { s with
    events := s.events ++ [.hardwareFault c.name]
    halted := true
    response := none
    host := .idle
    calls := s.calls ++ [c]
    answers := rest }

theorem State.initialise_of_fail {s : State} {rest : List Answer} (ha : s.answers = .fail :: rest) :
    s.initialise = s.callFails acquireCall rest := by
  simp only [State.initialise, State.platformCall_of_cons ha, ite_self]
  rfl

theorem State.initialise_of_acquired {s : State} {rest : List Answer} (ha : s.answers = .ok :: rest) :
    s.initialise =
      State.registerEncoder
        { s with calls := s.calls ++ [acquireCall], answers := rest, channel := acquiredChannel s.channel } := by
  simp only [State.initialise, State.platformCall_of_cons ha]
  rfl

theorem State.registerEncoder_of_fail {s : State} {rest : List Answer} (ha : s.answers = .fail :: rest) :
    s.registerEncoder = s.callFails .registerPullEncoder rest := by
  simp only [State.registerEncoder, State.platformCall_of_cons ha, ite_self]
  rfl

theorem State.registerEncoder_of_ok {s : State} {rest : List Answer} (ha : s.answers = .ok :: rest) :
    s.registerEncoder =
      State.enableChannel
        { s with
          calls := s.calls ++ [.registerPullEncoder], answers := rest
          channel := { s.channel with encoderRegistered := true } } := by
  simp only [State.registerEncoder, State.platformCall_of_cons ha]
  rfl

theorem State.enableChannel_of_fail {s : State} {rest : List Answer} (ha : s.answers = .fail :: rest) :
    s.enableChannel = s.callFails .enable rest := by
  simp only [State.enableChannel, State.platformCall_of_cons ha, ite_self]
  rfl

/-- The block as INIT has started it, before its CLEAR_ALL. -/
def State.started (s : State) (rest : List Answer) : State :=
  { s with
    ring := []
    pin := .low
    txInFlight := false
    initialized := true
    channel := ⟨true, Config.pin, Sys2Proof.resolutionHz, Config.blockSymbols, Config.queueDepth, true, true⟩
    calls := s.calls ++ [acquireCall, .registerPullEncoder, .enable]
    answers := rest }

theorem State.started_quiet {s : State} (hq : s.quiet = true) (rest : List Answer) : (s.started rest).quiet = true := by
  obtain ⟨-, -, hs⟩ := s.quiet_iff.1 hq
  exact (State.quiet_iff _).2 ⟨rfl, rfl, hs⟩

theorem exec_init_of_ok {s : State} {rest : List Answer} (hh : s.halted = false) (hinit : s.initialized = false)
    (ha : s.answers = .ok :: .ok :: .ok :: rest) : exec .init s = .next (s.started rest).clearAll := by
  rw [exec_init_of_fresh hh hinit, State.initialise_of_ok ha]
  rfl

/-- Settles O20: call by call, the last two those of the CLEAR_ALL. -/
theorem initHaltsAtTheFirstFailedCall : Obligations.InitHaltsAtTheFirstFailedCall := by
  intro s rest hh hinit
  refine ⟨fun ha => ?_, fun ha => ?_, fun ha => ?_, fun h hq ha => ?_, fun h hq ha => ?_⟩
  · rw [exec_init_of_fresh hh hinit, State.initialise_of_fail ha]
    rfl
  · rw [exec_init_of_fresh hh hinit, State.initialise_of_acquired ha, State.registerEncoder_of_fail rfl,
      State.callFails, List.append_assoc]
    rfl
  · rw [exec_init_of_fresh hh hinit, State.initialise_of_acquired ha, State.registerEncoder_of_ok rfl,
      State.enableChannel_of_fail rfl, State.callFails, List.append_assoc, List.append_assoc]
    rfl
  · rw [exec_init_of_ok hh hinit ha, State.clearAll_waitFails (s := s.started _) h (State.started_quiet hq _) rfl,
      State.started, List.append_assoc]
    rfl
  · rw [exec_init_of_ok hh hinit ha, State.clearAll_transmitFails (s := s.started _) h (State.started_quiet hq _) rfl
      (.inl rfl), State.started, List.append_assoc]
    rfl

/-- Settles O19: the CLEAR_ALL after the three calls issues the black frame, or its issue of no bytes fails. -/
theorem initBringsUpTheBlock : Obligations.InitBringsUpTheBlock := by
  intro s rest hh hinit h hq ha
  have hs : s.shift = none := (s.quiet_iff.1 hq).2.2
  have hquiet := State.started_quiet hq (.ok :: .ok :: rest)
  have hcalls : s.calls ++ [acquireCall, .registerPullEncoder, .enable] ++
      [.waitAllDone, .transmit (3 * Config.defaultLedCount.val)] = s.calls ++ [acquireCall, .registerPullEncoder,
      .enable, .waitAllDone, .transmit (3 * Config.defaultLedCount.val)] := List.append_assoc ..
  rw [exec_init_of_ok hh hinit ha]
  rcases transmit_accepted_or_not Config.defaultLedCount with hr | hfault
  · refine ⟨_, congrArg _ (State.clearAll_issues h hquiet rfl hr), rfl, fun _ => rfl, rfl, rfl, rfl, rfl, hs, hcalls,
      rfl, rfl, rfl, fun _ => ⟨hh, rfl, rfl, rfl, rfl, rfl, rfl⟩, fun hfault => ?_⟩
    exact absurd hr (not_accepted_of_rejected hfault)
  · refine ⟨_, congrArg _ (State.clearAll_transmitFails h hquiet rfl (.inr hfault)), rfl, fun _ => rfl, rfl, rfl, rfl,
      rfl, hs, hcalls, rfl, rfl, rfl, fun hr => ?_, fun _ => ⟨rfl, rfl, rfl, rfl⟩⟩
    exact absurd hr (not_accepted_of_rejected hfault)

/-! ## Operations out of turn, and reserved commands (R109, R182) -/

theorem exec_init_again {s : State} (hh : s.halted = false) (hinit : s.initialized = true) :
    exec .init s = .next (s.raise (.refused (headerWord 0x01 0))) :=
  (if_neg (by simp [hh])).trans (if_pos hinit)

/-- Settles O21: before INIT by the availability check, after it by INIT's own. -/
theorem operationsOutOfTurnAreRefused : Obligations.OperationsOutOfTurnAreRefused := by
  refine ⟨fun s i h ws hh hinit he hnotInit hnotQuant hnotReserved => ?_, fun s hh hinit => ?_⟩
  · rw [exec_of_fresh hh hinit he hnotInit hnotQuant hnotReserved]
    rfl
  · rw [exec_init_again hh hinit]
    rfl

/-- Settles O22: a reserved command is refused without a look at INIT. -/
theorem reservedCommandIsRefused : Obligations.ReservedCommandIsRefused :=
  fun _ _ _ hh => if_neg (by simp [hh])

/-! ## The step of an idle HOST -/

/-- Settles O51: the agents' turn leaves the port and the HOST as they are. -/
theorem stepRunsTheDecodedCommand : Obligations.StepRunsTheDecodedCommand := by
  intro s i rest hh hidle hdecode
  have hturn := s.agentsTurn_agentsOnly
  refine ⟨?_, State.agentsTurn_of_quiet⟩
  simp only [step, hh, hostStep, hturn.host, hidle, State.takeCommand, hturn.cmdWords, hdecode]
  rfl

end Sys2Proof.Machine
end

section
/-! PROOFS. LED with valid parameters (44_command_handler.md): what its stores leave in the buffer, and the FLUSH
after them. -/

namespace Sys2Proof.Machine

/-! ## The buffer after the parameters -/

theorem byte0_eq_setWidth (p : Word) : byte0 p = p.setWidth 8 :=
  BitVec.eq_of_toNat_eq (by rw [byte0_toNat, BitVec.toNat_setWidth])

/-- The buffer after one parameter. -/
theorem storeParam_wf {m : Memory} (h : m.wf) (k : Nat) (p : Word) :
    (if k < maxLeds then storeLed m k (quantize (byte0 p)) else m).wf := by
  split
  · exact storeLed_wf h ‹_› _
  · exact h

/-- No parameter stores a byte outside the LEDs it and the others name. -/
theorem storeParams_read_outside {m : Memory} (h : m.wf) {k : Nat} (ps : List Word) {a : Nat}
    (ha : a < 3 * k ∨ 3 * min (k + ps.length) maxLeds ≤ a) : (storeParams m k ps).read a = m.read a := by
  induction ps generalizing m k with
  | nil => rfl
  | cons p ps ih =>
    rw [List.length_cons] at ha
    rw [storeParams, ih (storeParam_wf h k p) (by omega)]
    split
    · rename_i hk
      exact storeLed_read_outside h hk _ (by omega)
    · rfl

/-- A read of bytes that two buffers agree on. -/
theorem memRead_congr {m m' : Memory} {addr n : Nat} (h : ∀ a, addr ≤ a → a < addr + n → m.read a = m'.read a) :
    memRead m addr n = memRead m' addr n :=
  List.map_congr_left fun _ hk => h _ (Nat.le_add_right _ _) (Nat.add_lt_add_left (List.mem_range.1 hk) _)

/-- Parameter `j` is stored in its LED, and the later ones do not touch it. -/
theorem memRead_storeParams {m : Memory} (h : m.wf) {k j : Nat} {ps : List Word} {p : Word} (hp : ps[j]? = some p)
    (hj : k + j < maxLeds) :
    memRead (storeParams m k ps) (3 * (k + j)) 3 =
      [(quantize (byte0 p)).green, (quantize (byte0 p)).red, (quantize (byte0 p)).blue] := by
  induction ps generalizing m k j with
  | nil => cases hp
  | cons q ps ih =>
    rw [storeParams]
    cases j with
    | zero =>
      cases hp
      rw [Nat.add_zero k] at hj ⊢
      rw [if_pos hj, memRead_congr fun a _ ha => storeParams_read_outside (storeLed_wf h hj _) ps (.inl (by omega)),
        memRead_storeLed h hj]
    | succ j =>
      rw [List.getElem?_cons_succ] at hp
      rw [show k + (j + 1) = k + 1 + j by omega] at hj ⊢
      exact ih (storeParam_wf h k q) hp hj

/-- The high-water mark after `n` parameters from the first on. -/
theorem usedAfter_val {n : Nat} (hn : n ≠ 0) (used : Fin 257) :
    (usedAfter used 0 n).val = max used.val (min n 256) := by
  simp only [usedAfter, if_neg hn, Nat.zero_add]

/-! ## LED at the port -/

/-- The stores of LED: every parameter stored, counted and, past the last LED, logged. -/
theorem stored_params {s : State} {ps : List Word} (h : s.pixels.wf) (hp : ∀ p ∈ ps, p.toNat ≤ 255) :
    Stored s (State.applyParams ps 0 s).2 (storeParams s.pixels 0 ps) (usedAfter s.usedCount 0 ps.length)
      (s.events ++ logsOf 0 ps.length) := by
  obtain ⟨u, hu, -, heq⟩ := State.applyParams_valid hp 0 h (by simp)
  rw [heq]
  exact ⟨rfl, rfl, rfl, hu.calls, hu.answers⟩

/-- LED with valid parameters runs its stores, then the FLUSH. -/
theorem exec_led_valid {s : State} (hh : s.halted = false) (hinit : s.initialized = true) {ps : List Word}
    (h : s.pixels.wf) (hne : ps ≠ []) (hp : ∀ p ∈ ps, p.toNat ≤ 255) :
    exec (.led ps) s = .next ((State.applyParams ps 0 s).2.flush ps.length) := by
  rw [exec_led_of_ready hh hinit, State.ledCommand_valid h hne hp]

/-- R217: the LEDs flushed, as many as parameters and at most 256; there is at least one. -/
theorem exists_ledsOfParams {ps : List Word} (hne : ps ≠ []) (used : Fin 257) :
    ∃ leds : Fin 257, leds.val = min ps.length 256 ∧ clampCount ps.length (usedAfter used 0 ps.length) = leds ∧
      leds ≠ 0 := by
  have hlen : ps.length ≠ 0 := fun h => hne (List.length_eq_zero_iff.1 h)
  have hval := clampCount_usedAfter hlen used
  refine ⟨_, hval, rfl, fun hzero => ?_⟩
  rw [hzero, Fin.val_zero] at hval
  omega

/-- Settles O46: the FLUSH writes neither the buffer nor `used_count`. -/
theorem ledStoresEachParameter : Obligations.LedStoresEachParameter := by
  intro s ps hh hinit h hne hp
  have hstored := stored_params h hp
  have hflush := (State.applyParams ps 0 s).2.flush_frame ps.length
  have hpixels := hflush.pixels.trans hstored.pixels
  refine ⟨_, exec_led_valid hh hinit h hne hp, fun k p hk hpk => ?_, fun a ha => ?_, ?_⟩
  · have hled := memRead_storeParams h hpk (k := 0) (by rwa [Nat.zero_add])
    rwa [Nat.zero_add, byte0_eq_setWidth, ← hpixels] at hled
  · rw [hpixels, storeParams_read_outside h ps (.inr (by rwa [Nat.zero_add]))]
  · rw [hflush.usedCount.trans hstored.usedCount, usedAfter_val fun hlen => hne (List.length_eq_zero_iff.1 hlen)]

/-- Settles O59: the four outcomes of the FLUSH after the stores; there is a LED to send, so the platform can accept
it. -/
theorem ledMeetsATransmissionInFlight : Obligations.LedMeetsATransmissionInFlight := by
  intro s ps rest hh hinit h hne hp
  have hstored := stored_params h hp
  obtain ⟨leds, hval, hleds, hnonzero⟩ := exists_ledsOfParams hne s.usedCount
  rw [exec_led_valid hh hinit h hne hp, ← hval]
  refine ⟨leds, rfl, fun hf ha => ?_, fun hf ha => ?_, fun ha => ?_, fun hf ha => ?_⟩
  · rw [hstored.flush_waits ha hf hleds]
  · rw [hstored.flush_issues ha hf hleds (.inl hnonzero)]
  · rw [hstored.flush_waitFails ha]
  · rw [hstored.flush_transmitFails ha hf hleds (.inl rfl)]

/-! ## LED where nothing is on its way to the wire -/

/-- There the stores change only what they store, count and log. -/
theorem applyParams_of_quiet {s : State} {ps : List Word} (h : s.pixels.wf) (hq : s.quiet = true)
    (hp : ∀ p ∈ ps, p.toNat ≤ 255) :
    (State.applyParams ps 0 s).2 =
      { s with
        pixels := storeParams s.pixels 0 ps
        usedCount := usedAfter s.usedCount 0 ps.length
        events := s.events ++ logsOf 0 ps.length } := by
  obtain ⟨u, -, hu, heq⟩ := State.applyParams_valid hp 0 h (by simp)
  rw [heq, hu hq]

theorem applyParams_notInFlight {s : State} {ps : List Word} (h : s.pixels.wf) (hq : s.quiet = true)
    (hp : ∀ p ∈ ps, p.toNat ≤ 255) : (State.applyParams ps 0 s).2.txInFlight = false := by
  rw [applyParams_of_quiet h hq hp]
  exact (s.quiet_iff.1 hq).1

/-- Settles O47: its FLUSH meets no transmission and its calls are answered `ok`. -/
theorem ledFlushesAsManyLedsAsParameters : Obligations.LedFlushesAsManyLedsAsParameters := by
  intro s ps rest hh hinit h hq ha hne hp
  obtain ⟨leds, hval, hled⟩ := ledMeetsATransmissionInFlight s ps rest hh hinit h hne hp
  obtain ⟨-, hissue, -, -⟩ := hled
  refine ⟨_, hissue (applyParams_notInFlight h hq hp) ha, ?_, ?_⟩
  · exact congrArg (3 * ·) hval
  · rw [applyParams_of_quiet h hq hp]

/-- Settles O50: its FLUSH meets no transmission, and the second call fails. -/
theorem ledKeepsItsColoursWhenTransmitFails : Obligations.LedKeepsItsColoursWhenTransmitFails := by
  intro s ps rest hh hinit h hq ha hne hp
  obtain ⟨leds, -, -, -, -, hhalt⟩ := ledMeetsATransmissionInFlight s ps rest hh hinit h hne hp
  have hidle := applyParams_notInFlight h hq hp
  have hused := usedAfter_val (fun hlen => hne (List.length_eq_zero_iff.1 hlen)) s.usedCount
  exact ⟨_, hhalt hidle ha, rfl, hused, rfl, rfl, hidle, rfl⟩

/-- A list with a parameter out of range has a first one (R213). -/
theorem exists_first_outOfRange {ps : List Word} (h : ¬ ∀ p ∈ ps, p.toNat ≤ 255) :
    ∃ good bad later, ps = good ++ bad :: later ∧ (∀ p ∈ good, p.toNat ≤ 255) ∧ 255 < bad.toNat := by
  induction ps with
  | nil => exact absurd nofun h
  | cons p ps ih =>
    by_cases hp : p.toNat ≤ 255
    · obtain ⟨good, bad, later, rfl, hgood, hbad⟩ := ih fun hps => h (List.forall_mem_cons.2 ⟨hp, hps⟩)
      exact ⟨p :: good, bad, later, rfl, List.forall_mem_cons.2 ⟨hp, hgood⟩, hbad⟩
    · exact ⟨[], p, ps, rfl, nofun, Nat.lt_of_not_le hp⟩

/-- Settles O49: no parameters, all in range, or a first one out of range. -/
theorem ledAnswersOkIffAllInRange : Obligations.LedAnswersOkIffAllInRange := by
  intro s ps rest hh hinit h hq ha
  by_cases hne : ps = []
  · subst hne
    exact ⟨_, ledWithoutParametersChangesNothing s hh hinit, .inr rfl, by simp⟩
  by_cases hp : ∀ p ∈ ps, p.toNat ≤ 255
  · obtain ⟨t, hexec, -, ht⟩ := ledFlushesAsManyLedsAsParameters s ps rest hh hinit h hq ha hne hp
    have hok : t.response = some ⟨.ok, none⟩ := by rw [ht]
    exact ⟨t, hexec, .inl hok, fun _ => ⟨List.length_pos_iff.2 hne, hp⟩, fun _ => hok⟩
  · obtain ⟨good, bad, later, rfl, hgood, hbad⟩ := exists_first_outOfRange hp
    obtain ⟨u, -, -, hexec⟩ := ledStopsAtARangeError s good bad later hh hinit h hgood hbad
    exact ⟨_, hexec, .inr rfl, nofun, fun hall => absurd hall.2 hp⟩

end Sys2Proof.Machine
end
